-- ==== Sys2Proof/Word.lean ====
section
/-! DEFINITION. The word widths of the block (rules R10, R80, R95 of spec/). All values are unsigned (rule R11). -/

namespace Sys2Proof

/-- An 8-bit word: the latch word, a duty value, a curve entry (rule R10). -/
abbrev Byte := BitVec 8

/-- A 32-bit word: steps per revolution, rpm, a step count, a response value (rule R10). -/
abbrev Word := BitVec 32

/-- A 3-bit selector field of a command: port, direction or style code (rule R80). -/
abbrev Code := BitVec 3

/-- The 48-bit command word `CMD[47:0]` (rules R80, R98). -/
abbrev Command := BitVec 48

/-- The 40-bit response word `RSP[39:0]` (rules R95, R98). -/
abbrev Response := BitVec 40

end Sys2Proof
end

