-- ==== Sys2Proof/Syntax.lean ====
section
/-! DEFINITION. The six commands of the block (rules R16, R81 and spec/opcode_table.json) and the meanings of
their direction and style operands. -/

namespace Sys2Proof

/-- The direction of a step: "forward = +, backward = −" (rules R83, R163). -/
inductive Direction where
  | forward
  | backward
deriving DecidableEq, Repr

/-- "Stepping style: one of {Single, Double, Interleave, Microstep}" (rule R84). -/
inductive Style where
  | single
  | double
  | interleave
  | microstep
deriving DecidableEq, Repr

/-- One constructor per row of the opcode map (rule R89). The selector operands are the command's raw 3-bit fields:
a code that names no port, direction or style decodes, and the command itself then refuses it (rules R89, R220).
The pseudo-instruction `TX w` is `latchw 0xFF w` (rule R93) and needs no constructor. -/
inductive Instr where
  /-- `NEW p, spr` (rule R186). -/
  | new (port : Code) (spr : Word)
  /-- `SETSPEED p, rpm` (rule R189). -/
  | setspeed (port : Code) (rpm : Word)
  /-- `ONESTEP p, dir, style` (rule R170). -/
  | onestep (port dir style : Code)
  /-- `STEP p, dir, style, count` (rule R193). -/
  | step (port dir style : Code) (count : Word)
  /-- `RELEASE p` (rule R175). -/
  | release (port : Code)
  /-- `LATCHW mask, value` (rule R118). -/
  | latchw (mask value : Byte)
deriving DecidableEq, Repr

end Sys2Proof
end

