-- ==== Sys2Proof/Decode.lean ====
section
/-! DEFINITION. The command decoder and encoder (spec/30_encoding.md rules R80 to R91). The block takes a command
word whole and in parallel (rule R57), so there is no byte order between the word and the decoder. -/

namespace Sys2Proof

/-- Why a word is no command: the one reason of rule R88. -/
inductive DecodeError where
  /-- The word matches no row of the opcode map (rules R88, R215). -/
  | badEncoding
deriving DecidableEq, Repr

/-- `op`, bits 47:44 (rule R80). -/
def opField (w : Command) : BitVec 4 := w.extractLsb' 44 4
/-- `port`, bits 43:41 (rule R80). -/
def portField (w : Command) : Code := w.extractLsb' 41 3
/-- `dir`, bits 40:38 (rule R80). -/
def dirField (w : Command) : Code := w.extractLsb' 38 3
/-- `style`, bits 37:35 (rule R80). -/
def styleField (w : Command) : Code := w.extractLsb' 35 3
/-- `rsv`, bits 34:32 (rule R80). -/
def rsvField (w : Command) : Code := w.extractLsb' 32 3
/-- `imm`, bits 31:0 (rules R80, R94). -/
def immField (w : Command) : Word := w.extractLsb' 0 32

/-- The decoder: "a word `c` selects the row when `c AND mask = match`" (rule R89), "every word that matches no
row is illegal" (rule R88). Total: every 48-bit word is one of the six commands or illegal (rule R91). -/
def decode (w : Command) : Except DecodeError Instr :=
  if w &&& 0xF1FF00000000#48 = 0x100000000000#48 then .ok (.new (portField w) (immField w))
  else if w &&& 0xF1FF00000000#48 = 0x200000000000#48 then .ok (.setspeed (portField w) (immField w))
  else if w &&& 0xF007FFFFFFFF#48 = 0x300000000000#48 then
    .ok (.onestep (portField w) (dirField w) (styleField w))
  else if w &&& 0xF00700000000#48 = 0x400000000000#48 then
    .ok (.step (portField w) (dirField w) (styleField w) (immField w))
  else if w &&& 0xF1FFFFFFFFFF#48 = 0x500000000000#48 then .ok (.release (portField w))
  else if w &&& 0xFFFFFFFF0000#48 = 0x600000000000#48 then
    .ok (.latchw (w.extractLsb' 8 8) (w.extractLsb' 0 8))
  else .error .badEncoding

/-- The one command format: `op ++ port ++ dir ++ style ++ rsv ++ imm` with `rsv = 0` (rules R80, R87). -/
def commandOf (op : BitVec 4) (port dir style : Code) (imm : Word) : Command :=
  op ++ port ++ dir ++ style ++ 0#3 ++ imm

/-- The encoder: the fields a command does not use are zero (rules R81, R87, R89). -/
def encode : Instr → Command
  | .new port spr => commandOf 1#4 port 0#3 0#3 spr
  | .setspeed port rpm => commandOf 2#4 port 0#3 0#3 rpm
  | .onestep port dir style => commandOf 3#4 port dir style 0#32
  | .step port dir style count => commandOf 4#4 port dir style count
  | .release port => commandOf 5#4 port 0#3 0#3 0#32
  | .latchw mask value => commandOf 6#4 0#3 0#3 0#3 (0#16 ++ mask ++ value)

/-- The command word whose table bits are the low `nbits` bits of `w`, every bit above them 0
(log entry 14: a command is one 48-bit word, numbered as the table numbers it). -/
def tableCommand (nbits w : Nat) : Command := BitVec.ofNat 48 (w % 2 ^ nbits)

/-- What the decoder reads from a row's bits; `none` where it refuses. -/
def decodeTableWord (nbits w : Nat) : Option Instr :=
  match decode (tableCommand nbits w) with
  | .ok i => some i
  | .error _ => none

end Sys2Proof
end

