-- ==== Sys2Proof/Machine/Flags.lean ====
section
/-! DEFINITION. The block has no condition codes: "none are written as a side effect of any command" (rule R30).
What a command reports stands in its response: the status, the cause and the value (rules R95, R211, R212). -/

namespace Sys2Proof.Machine

/-- The errors a command can raise, in the order of rule R220. The first five are of the class ConfigurationError,
the last of the class ArithmeticFault (rules R210, R212). -/
inductive CmdError where
  | badEncoding
  | badPort
  | notConstructed
  | badDirection
  | badStyle
  | divByZero
deriving DecidableEq, Repr

/-- The status code of an error: 1 is CONFIG_ERROR, 2 is ARITH_FAULT (rules R211, R212). -/
def CmdError.status : CmdError → BitVec 2
  | .badEncoding => 1#2
  | .badPort => 1#2
  | .notConstructed => 1#2
  | .badDirection => 1#2
  | .badStyle => 1#2
  | .divByZero => 2#2

/-- The cause code of an error (rule R212). -/
def CmdError.cause : CmdError → BitVec 3
  | .badEncoding => 1#3
  | .badPort => 2#3
  | .notConstructed => 3#3
  | .badDirection => 4#3
  | .badStyle => 5#3
  | .divByZero => 1#3

/-- The response word: status 39:38, cause 37:35, bits 34:32 zero, value 31:0 (rule R95). -/
def responseWord (status : BitVec 2) (cause : BitVec 3) (value : Word) : Response :=
  status ++ cause ++ 0#3 ++ value

/-- `respond(v)`: status OK, cause 0, value `v` (rules R13, R95). -/
def okResponse (v : Word) : Response := responseWord 0#2 0#3 v

/-- The response of an error: its status and cause, value 0 (rules R95, R214). -/
def errorResponse (e : CmdError) : Response := responseWord e.status e.cause 0#32

end Sys2Proof.Machine
end

