-- ==== Sys2Proof/Config.lean ====
section
/-! DEFINITION. The parameters of one block (rule R8 of spec/00_scope.md) and the values that no source gives
(rules R34, R238): the former are a record, the latter uninterpreted constants. The values of the tables and the
reads of them stand in Machine/Tables.lean. -/

namespace Sys2Proof

/-- `N`, the number of points of the microstep curve: "either 9 or 17" (rules R8, R9). A curve of any other length
is no block of this spec (93_implementation_defined.md U7), so it has no constructor. -/
inductive CurvePoints where
  | nine
  | seventeen
deriving DecidableEq, Repr

/-- The four coil-enable lines of a port (rule R130): A and C are the two polarities of the first coil,
B and D those of the second. -/
inductive Coil where
  | A
  | B
  | C
  | D
deriving DecidableEq, Repr

/-- The two PWM duty outputs of a port, `PWM[p].A` and `PWM[p].B` (rule R58). -/
inductive Channel where
  | A
  | B
deriving DecidableEq, Repr

/-- One entry of `COILMAP`: a port identifier of `PORTS` and the positions of its bits A, B, C, D in the latch
word (rule R130). -/
structure PortEntry where
  id : Code
  bitA : Fin 8
  bitB : Fin 8
  bitC : Fin 8
  bitD : Fin 8
deriving DecidableEq, Repr

/-- The parameters of one block (rule R8): the curve's size, its entries `CURVE[0..M]`, and the ports with their
coil maps (the identifiers listed are `PORTS`, rules R131, R134). Nothing the block executes writes them
(rules R9, R55). What makes them legal is `Config.Legal` in WellFormed.lean. -/
structure Config where
  points : CurvePoints
  curve : List Byte
  ports : List PortEntry
deriving DecidableEq, Repr

/-- FREE VALUE (rules R34, R238: "must be treated as unknown"): the shadow register `SR` of the downstream shift
register when it powers on. Log entry 2. -/
opaque Config.powerOnShift : Byte

/-- FREE VALUE (rules R34, R238): the eight output lines `Q` of the downstream shift register when it powers on.
Log entry 2. -/
opaque Config.powerOnOutputs : Byte

/-- FREE VALUE (rule R238): the duty that `pwm_configure` gave a channel before the block's first `PwmSet` to it.
Log entry 2. -/
opaque Config.configuredDuty : Code → Channel → Byte

end Sys2Proof
end

