-- ==== Sys2Proof/Machine/Tables.lean ====
section
/-! DEFINITION. coil_phase_table and microstep_duty_interpolator: the read-only tables of the block and the pure
look-ups the commands make in them (spec/41_coil_phase_table.md, spec/42_microstep_duty.md), and the default contents
of the open tables (rules R132, R147). -/

namespace Sys2Proof

/-- `M = N − 1`: the width of one quadrant in position units (rule R8, conflict C1). -/
def Config.M (c : Config) : Nat :=
  match c.points with
  | .nine => 8
  | .seventeen => 16

/-- `H = M/2`: the half-step width (rule R8). -/
def Config.H (c : Config) : Nat := c.M / 2

/-- `CYC = 4·M`: the length of the electrical cycle (rule R8). -/
def Config.cycle (c : Config) : Nat := 4 * c.M

/-- `CURVE[i]` (rules R51, R145). Every index a rule uses is in the table of a legal `Config` (rule R60 (a));
log entry 11 says what the read gives outside it. -/
def Config.curveAt (c : Config) (i : Nat) : Byte := c.curve.getD i 0#8

/-- `COILMAP[p]`, and `none` for `p ∉ PORTS` (rules R52, R130). -/
def Config.coilMap? (c : Config) (p : Code) : Option PortEntry :=
  c.ports.find? (fun e => e.id == p)

/-- `mX(p) = 1 << x`: the one-hot latch mask of one coil line of a port (rule R130). -/
def PortEntry.coilMask (e : PortEntry) : Coil → Byte
  | .A => 1#8 <<< e.bitA.val
  | .B => 1#8 <<< e.bitB.val
  | .C => 1#8 <<< e.bitC.val
  | .D => 1#8 <<< e.bitD.val

/-- `PMASK(p) = mA(p) OR mB(p) OR mC(p) OR mD(p)` (rule R130). -/
def PortEntry.portMask (e : PortEntry) : Byte :=
  e.coilMask .A ||| e.coilMask .B ||| e.coilMask .C ||| e.coilMask .D

/-- `ENBITS(p, S)`: the OR of `mX(p)` over `X ∈ S` (rule R138). -/
def PortEntry.enBits (e : PortEntry) : List Coil → Byte
  | [] => 0#8
  | x :: rest => e.coilMask x ||| e.enBits rest

namespace Machine

/-- `PHASE8`: the enable set at each half-step index (rule R136). -/
def phase8 (k : Fin 8) : List Coil :=
  match k with
  | 0 => [.A]
  | 1 => [.A, .B]
  | 2 => [.B]
  | 3 => [.B, .C]
  | 4 => [.C]
  | 5 => [.C, .D]
  | 6 => [.D]
  | 7 => [.D, .A]

/-- `QUAD4`: the Microstep enable set of each quadrant (rule R137). -/
def quad4 (q : Fin 4) : List Coil :=
  match q with
  | 0 => [.A, .B]
  | 1 => [.B, .C]
  | 2 => [.C, .D]
  | 3 => [.D, .A]

/-- `ENABLES(style, pos)` for the position after the step (rule R135). `Fin.ofNat 8` is the rule's `mod 8`;
`pos / M ≤ 3` for every position of the cycle, so `Fin.ofNat 4` changes nothing there. -/
def enables (c : Config) (style : Style) (pos : Nat) : List Coil :=
  match style with
  | .microstep => quad4 (Fin.ofNat 4 (pos / c.M))
  | .single => phase8 (Fin.ofNat 8 (pos / c.H))
  | .double => phase8 (Fin.ofNat 8 (pos / c.H))
  | .interleave => phase8 (Fin.ofNat 8 (pos / c.H))

/-- `DUTY(pos) = (ocrA, ocrB)`, line by line of rule R150: `q = pos / M`, `off = pos − q·M` (rule R149). -/
def duty (c : Config) (pos : Nat) : Byte × Byte :=
  let q := pos / c.M
  let off := pos - q * c.M
  match Fin.ofNat 4 q with
  | 0 => (c.curveAt (c.M - off), c.curveAt off)
  | 1 => (c.curveAt off, c.curveAt (c.M - off))
  | 2 => (c.curveAt (c.M - off), c.curveAt off)
  | 3 => (c.curveAt off, c.curveAt (c.M - off))

/-- The default curve of 9 points (rule R147; a default of an open parameter, log entry 1). -/
def defaultCurve9 : List Byte :=
  [0#8, 50#8, 98#8, 142#8, 180#8, 212#8, 236#8, 250#8, 255#8]

/-- The default curve of 17 points (rule R147; log entry 1). -/
def defaultCurve17 : List Byte :=
  [0#8, 25#8, 50#8, 74#8, 98#8, 120#8, 141#8, 162#8, 180#8,
   197#8, 212#8, 225#8, 236#8, 244#8, 250#8, 253#8, 255#8]

/-- The default `COILMAP`: PortM1M2 is 1, PortM3M4 is 2 (rules R82, R132; log entry 1). -/
def defaultPorts : List PortEntry :=
  [⟨1#3, 2, 1, 3, 4⟩, ⟨2#3, 5, 0, 7, 6⟩]

/-- The parameters of rule R8's column "default used in vectors": N = 17. -/
def defaultConfig : Config := ⟨.seventeen, defaultCurve17, defaultPorts⟩

/-- The same block with the 9-point curve (rule R8: "and 9 where stated"). -/
def defaultConfig9 : Config := ⟨.nine, defaultCurve9, defaultPorts⟩

end Machine

end Sys2Proof
end

