-- ==== Sys2Proof/Machine/Motion.lean ====
section
/-! DEFINITION. The position update of one step (spec/43_sequencer_step.md sections 1 and 2), over exact naturals
(rule R12). -/

namespace Sys2Proof.Machine

/-- The half-step index `idx(pos) = pos / H` (rule R161). -/
def halfIndex (c : Config) (pos : Nat) : Nat := pos / c.H

/-- `DELTA(style, pos)`: how far one call moves (rule R162, which settles conflicts C2 and C3). -/
def delta (c : Config) (style : Style) (pos : Nat) : Nat :=
  match style with
  | .single => if halfIndex c pos % 2 = 1 then c.H else c.M
  | .double => if halfIndex c pos % 2 = 0 then c.H else c.M
  | .interleave => c.H
  | .microstep => 1

/-- `NEWPOS(pos, dir, delta)`: the update and the wrap are one operation (rules R163, R164). -/
def newPos (c : Config) (pos : Nat) (dir : Direction) (d : Nat) : Nat :=
  match dir with
  | .forward => (pos + d) % c.cycle
  | .backward => (pos + c.cycle - d) % c.cycle

end Sys2Proof.Machine
end

