-- ==== Sys2Proof/Machine/Operands.lean ====
section
/-! DEFINITION. The operand forms: what the direction and style codes of a command mean (rules R83, R84). The port
code is looked up in the block's own tables (Machine/Tables.lean); the immediate is used as it stands (rule R94). -/

namespace Sys2Proof.Machine

/-- `dir` values: 1 is Forward, 2 is Backward, "`0` and `3..7` are not directions" (rule R83). -/
def directionOf (dir : Code) : Option Direction :=
  if dir = 1#3 then some .forward
  else if dir = 2#3 then some .backward
  else none

/-- `style` values 1 to 4; "`0` and `5..7` are not styles" (rule R84). -/
def styleOf (style : Code) : Option Style :=
  if style = 1#3 then some .single
  else if style = 2#3 then some .double
  else if style = 3#3 then some .interleave
  else if style = 4#3 then some .microstep
  else none

end Sys2Proof.Machine
end

