-- ==== Sys2Proof/Machine/State.lean ====
section
/-! DEFINITION. The state of the block (spec/10_state.md), of the environment its outputs drive (rules R34, R61) and
of the host that commands it (rule R7); the reasons a step can stop; and the machine right after reset. -/

namespace Sys2Proof.Machine

/-- The three output pins (rules R32, R56). -/
inductive Pin where
  | serLatch
  | serData
  | serClk
deriving DecidableEq, Repr

/-- The events of the output trace (rule R14). -/
inductive Event where
  /-- `W(pin, level)`: a pin is driven (rule R56). -/
  | w (pin : Pin) (level : Bool)
  /-- `PwmSet(port, channel, duty)`: a duty output is programmed (rule R58). -/
  | pwmSet (port : Code) (chan : Channel) (duty : Byte)
  /-- `Delay(ms)`: a delay is requested, a whole number of milliseconds of 32 bits (rules R50, R59). -/
  | delay (ms : Word)
deriving DecidableEq, Repr

/-- The levels last driven on the three pins (rule R32). -/
structure Pins where
  serLatch : Bool
  serData : Bool
  serClk : Bool
deriving DecidableEq, Repr

/-- The engine context `CTX[p]` of one port (rule R23). -/
structure Ctx where
  /-- `VALID`: NEW has constructed this context. -/
  valid : Bool
  /-- `SPR`: steps per revolution (rule R25). -/
  spr : Word
  /-- `POS`: the position counter, in microstep units (rules R10, R24). -/
  pos : Word
  /-- `USPS`: microseconds per full step (rule R26). -/
  usps : Word
  /-- `REM`: the pacing remainder in microseconds, 11 bits (rule R27). -/
  rem : BitVec 11
  /-- `OCRA`: the duty last programmed on `PWM[p].A` (rule R31). -/
  ocrA : Byte
  /-- `OCRB`: the duty last programmed on `PWM[p].B` (rule R31). -/
  ocrB : Byte
deriving DecidableEq, Repr

/-- The duties of one port's two channels in the PWM peripheral (rule R34). -/
structure DutyPair where
  a : Byte
  b : Byte
deriving DecidableEq, Repr

/-- The environment's state (rule R34): the downstream shift register's `SR` and `Q` (rule R61) and the PWM
peripheral's current duty of each channel, by port code. -/
structure Env where
  sr : Byte
  q : Byte
  duties : Vector DutyPair 8
deriving DecidableEq, Repr

/-- What the host and the platform do to the block: present a command word (rule R98), reset it (rule R235), or
present a command word and reset the block after `k` events of that command (rule R236). -/
inductive HostAction where
  | command (w : Command)
  | reset
  | commandThenReset (w : Command) (k : Nat)
deriving DecidableEq, Repr

/-- The whole state. `latch`, `ctx`, `pins`, `out` are the block's (rule R20), `busy` and `rsp` its command port's
(rules R30, R98); `cfg` holds the instance's constants (rules R8, R36; log entry 1), `env` is the environment's
(rule R34) and `host` what the host has still to do (rules R7, R92; log entry 5). -/
structure State where
  /-- `LATCH`, the 8-bit latch word (rule R21). -/
  latch : Byte
  /-- `CTX[p]` for every port code `p` (rule R23; log entry 9). -/
  ctx : Vector Ctx 8
  /-- `PIN.SER_LATCH`, `PIN.SER_DATA`, `PIN.SER_CLK` (rule R32). -/
  pins : Pins
  /-- `OUT`, the output trace, oldest event first (rule R14). -/
  out : List Event
  /-- `BUSY` (rule R30). -/
  busy : Bool
  /-- The response port: `rsp_valid` with `RSP[39:0]`, `none` while no response is presented (rule R98). -/
  rsp : Option Response
  /-- The parameters of this block, written by nothing (rule R8). -/
  cfg : Config
  /-- The environment (rule R34). -/
  env : Env
  /-- The host's actions, the next one first (rule R92). -/
  host : List HostAction
deriving DecidableEq, Repr

/-- The reasons the machine stops with a fault: none. Every error of the block is a response after which it goes on
(rules R214, R223), and "a model must not invent one" for the collaborators (rule R225). Nothing raises it; safe. -/
inductive Fault where
deriving DecidableEq, Repr

/-- The reasons the machine gives no meaning. -/
inductive Refusal where
  /-- An instruction without a meaning yet: raised by no arm of `exec` in this model. Safe. -/
  | notModelled (mnemonic : String)
deriving DecidableEq, Repr

/-- A context at reset: every field 0 (rules R23, R35). -/
def Ctx.reset : Ctx :=
  { valid := false, spr := 0#32, pos := 0#32, usps := 0#32, rem := 0#11, ocrA := 0#8, ocrB := 0#8 }

/-- The pins at reset: all low (rules R32, R35). -/
def Pins.low : Pins := { serLatch := false, serData := false, serClk := false }

/-- The duties of one port's channels before the block's first write to them (rule R238; log entry 2). -/
def DutyPair.configured (p : Code) : DutyPair :=
  { a := Config.configuredDuty p .A, b := Config.configuredDuty p .B }

/-- The environment before the block's first write to it: unknown (rules R34, R238; log entry 2). -/
def Env.powerOn : Env :=
  { sr := Config.powerOnShift
    q := Config.powerOnOutputs
    duties := #v[DutyPair.configured 0#3, DutyPair.configured 1#3, DutyPair.configured 2#3,
      DutyPair.configured 3#3, DutyPair.configured 4#3, DutyPair.configured 5#3,
      DutyPair.configured 6#3, DutyPair.configured 7#3] }

/-- The block with parameters `c` right after reset, its environment just powered on and no command presented
(rules R35, R235, R237). -/
def State.resetWith (c : Config) : State :=
  { latch := 0x00#8
    ctx := Vector.replicate 8 Ctx.reset
    pins := Pins.low
    out := []
    busy := false
    rsp := none
    cfg := c
    env := Env.powerOn
    host := [] }

/-- The machine right after reset, with the default parameters of rule R8 (log entry 1). -/
def State.reset : State := State.resetWith defaultConfig

end Sys2Proof.Machine
end

