-- ==== Sys2Proof/Machine/Receiver.lean ====
section
/-! DEFINITION. The environment as the receiver of the output events: the reference model of the downstream shift
register (rule R61), the PWM peripheral's duties (rules R34, R58) and the delay capability (rule R59). -/

namespace Sys2Proof.Machine

/-- The duty pair with one channel's duty replaced. -/
def DutyPair.set (d : DutyPair) (chan : Channel) (v : Byte) : DutyPair :=
  match chan with
  | .A => { d with a := v }
  | .B => { d with b := v }

/-- The PWM peripheral's current duty of one channel (rule R34). -/
def Env.duty (env : Env) (p : Code) (chan : Channel) : Byte :=
  match chan with
  | .A => (env.duties.get p.toFin).a
  | .B => (env.duties.get p.toFin).b

/-- `PwmSet(p, chan, v)` as the PWM peripheral sees it (rule R58). -/
def Env.setDuty (env : Env) (p : Code) (chan : Channel) (v : Byte) : Env :=
  { env with duties := env.duties.set p.toNat ((env.duties.get p.toFin).set chan v) p.isLt }

/-- A rising edge of SER_CLK: `SR <- SR[6:0] ++ SER_DATA` (rule R61). -/
def Env.shiftIn (env : Env) (bit : Bool) : Env :=
  { env with sr := env.sr.extractLsb' 0 7 ++ BitVec.ofBool bit }

/-- A rising edge of SER_LATCH: `Q <- SR` (rule R61). -/
def Env.commit (env : Env) : Env := { env with q := env.sr }

/-- What an event does to the environment, given the pin levels before it: edges act, levels do not (rule R61);
a delay has no other effect than its place in `OUT` (rule R59). -/
def Env.receive (env : Env) (pins : Pins) : Event → Env
  | .w .serClk level => if level && !pins.serClk then env.shiftIn pins.serData else env
  | .w .serLatch level => if level && !pins.serLatch then env.commit else env
  | .w .serData _ => env
  | .pwmSet p chan v => env.setDuty p chan v
  | .delay _ => env

/-- What an event does to the pin levels: a drive sets the stored level (rule R56). -/
def Pins.receive (pins : Pins) : Event → Pins
  | .w .serClk level => { pins with serClk := level }
  | .w .serLatch level => { pins with serLatch := level }
  | .w .serData level => { pins with serData := level }
  | .pwmSet _ _ _ => pins
  | .delay _ => pins

end Sys2Proof.Machine
end

