-- ==== Sys2Proof/Machine/Ops.lean ====
section
/-! DEFINITION. The named operations of the block over its registers and outputs (rule R13): reading and writing a
context, emitting events, TRANSMIT, the latch update, programming duties, PACE, one step of the state machine, the
checks every command begins with, responding, and raising an error. -/

namespace Sys2Proof.Machine

/-- `CTX[p]` (rule R23). -/
def State.ctxOf (s : State) (p : Code) : Ctx := s.ctx.get p.toFin

/-- `CTX[p] <- x`, the other contexts unchanged. -/
def State.setCtx (s : State) (p : Code) (x : Ctx) : State :=
  { s with ctx := s.ctx.set p.toNat x p.isLt }

/-- The position `CTX[p].POS` as a number (rule R10). -/
def State.posOf (s : State) (p : Code) : Nat := (s.ctxOf p).pos.toNat

/-- One output event: it is appended to `OUT` (rule R14), sets the pin it drives (rule R56) and reaches the
environment before the next event starts (rule R66). -/
def State.emit (s : State) (e : Event) : State :=
  { s with out := s.out ++ [e], pins := s.pins.receive e, env := s.env.receive s.pins e }

/-- Events emitted one after another. -/
def State.emitAll (s : State) (es : List Event) : State := es.foldl State.emit s

/-- The three pin writes that send one bit: step 2 of TRANSMIT (rule R111). -/
def bitEvents (bit : Bool) : List Event :=
  [.w .serClk false, .w .serData bit, .w .serClk true]

/-- The 27 events of `TRANSMIT(w)`, most significant bit first (rules R111, R113). -/
def transmitEvents (w : Byte) : List Event :=
  [.w .serLatch false, .w .serData false] ++
    (List.range 8).flatMap (fun i => bitEvents (w.getLsbD (7 - i))) ++
    [.w .serLatch true]

/-- `TRANSMIT(LATCH)`, the only way TRANSMIT is called (rules R111, R117). -/
def State.transmit (s : State) : State := s.emitAll (transmitEvents s.latch)

/-- `LATCH <- (LATCH AND NOT mask) OR (value AND mask)`, one indivisible update (rules R68, R118). -/
def State.updateLatch (s : State) (mask value : Byte) : State :=
  { s with latch := (s.latch &&& ~~~mask) ||| (value &&& mask) }

/-- `LATCH <- (LATCH AND NOT PMASK(p)) OR ENBITS(p, S)` (rule R168). -/
def State.enableCoils (s : State) (e : PortEntry) (coils : List Coil) : State :=
  { s with latch := (s.latch &&& ~~~e.portMask) ||| e.enBits coils }

/-- `LATCH <- LATCH AND NOT PMASK(p)` (rule R175). -/
def State.disableCoils (s : State) (e : PortEntry) : State :=
  { s with latch := s.latch &&& ~~~e.portMask }

/-- The context with `OCRA` or `OCRB` replaced. -/
def Ctx.setOcr (x : Ctx) (chan : Channel) (v : Byte) : Ctx :=
  match chan with
  | .A => { x with ocrA := v }
  | .B => { x with ocrB := v }

/-- The context's own copy of a duty: `OCRA` or `OCRB` (rule R31). -/
def Ctx.ocr (x : Ctx) (chan : Channel) : Byte :=
  match chan with
  | .A => x.ocrA
  | .B => x.ocrB

/-- `PWM[p].X <- v`: sets `CTX[p].OCRX` and appends `PwmSet(p, X, v)` (rules R31, R58). -/
def State.programDuty (s : State) (p : Code) (chan : Channel) (v : Byte) : State :=
  (s.setCtx p ((s.ctxOf p).setOcr chan v)).emit (.pwmSet p chan v)

/-- `emit Delay(ms)` (rule R59). -/
def State.delay (s : State) (ms : Nat) : State := s.emit (.delay (BitVec.ofNat 32 ms))

/-- `CTX[p].POS <- pos`; a position fits the register (rules R10, R164). -/
def State.setPos (s : State) (p : Code) (pos : Nat) : State :=
  s.setCtx p { s.ctxOf p with pos := BitVec.ofNat 32 pos }

/-- `CTX[p].REM <- r`; a remainder fits the register (rules R27, R200). -/
def State.setRem (s : State) (p : Code) (r : Nat) : State :=
  s.setCtx p { s.ctxOf p with rem := BitVec.ofNat 11 r }

/-- `PACE(p, us)` (rule R199): the whole milliseconds, also when 0, then the remainder, then one millisecond more
when the remainder exceeds 1000. -/
def State.pace (s : State) (p : Code) (us : Nat) : State :=
  let total := (s.ctxOf p).rem.toNat + us % 1000
  if total > 1000 then ((s.delay (us / 1000)).delay 1).setRem p (total - 1000)
  else (s.delay (us / 1000)).setRem p total

/-- The position one call moves port `p` to: DELTA on the position before, then NEWPOS (rules R162, R164, R170). -/
def State.nextPos (s : State) (p : Code) (dir : Direction) (style : Style) : Nat :=
  newPos s.cfg (s.posOf p) dir (delta s.cfg style (s.posOf p))

/-- `ONESTEP_CORE(p, dir, style)` (rule R170): the new position, the latch update and its transmission, then the
duty of channel A, then that of channel B (rule R169). `e` is `COILMAP[p]`. -/
def State.oneStepCore (s : State) (p : Code) (e : PortEntry) (dir : Direction) (style : Style) : State :=
  let pos := s.nextPos p dir style
  let ocr := duty s.cfg pos
  let coils := enables s.cfg style pos
  ((((s.setPos p pos).enableCoils e coils).transmit).programDuty p .A ocr.1).programDuty p .B ocr.2

/-- One iteration of STEP's loops: `ONESTEP_CORE`, then `PACE` (rule R196). -/
def State.pacedStep (s : State) (p : Code) (e : PortEntry) (dir : Direction) (style : Style) (us : Nat) : State :=
  (s.oneStepCore p e dir style).pace p us

/-- STEP's main loop: exactly `n` iterations (rules R193, R196). -/
def State.mainLoop (p : Code) (e : PortEntry) (dir : Direction) (style : Style) (us : Nat) : Nat → State → State
  | 0, s => s
  | n + 1, s => State.mainLoop p e dir style us n (s.pacedStep p e dir style us)

/-- STEP's tail loop: `while CTX[p].POS ≠ 0 and CTX[p].POS ≠ M` (rules R193, R197). The first argument bounds the
iterations; "it reaches 0 within `4·M − 1` iterations", so `4·M` cuts nothing off (log entry 12). -/
def State.tailLoop (p : Code) (e : PortEntry) (dir : Direction) (us : Nat) : Nat → State → State
  | 0, s => s
  | n + 1, s =>
    if s.posOf p ≠ 0 ∧ s.posOf p ≠ s.cfg.M then
      State.tailLoop p e dir us n (s.pacedStep p e dir .microstep us)
    else s

/-- `respond(v)`: the OK response is presented and `BUSY` falls (rules R13, R98). -/
def State.respond (s : State) (v : Word) : State :=
  { s with rsp := some (okResponse v), busy := false }

/-- TAKING AN EXCEPTION: `raise E(cause)` ends the command with its error response; `BUSY` falls and nothing else
changes (rule R214). There is no handler, no saved state and nothing to return from (rules R214, R223): the next
command simply runs. -/
def State.raise (s : State) (e : CmdError) : State :=
  { s with rsp := some (errorResponse e), busy := false }

/-- `check p ∈ PORTS else raise ConfigurationError(BAD_PORT)` (rule R216); what passes carries `COILMAP[p]`. -/
def State.checkPort (s : State) (p : Code) : Except CmdError PortEntry :=
  match s.cfg.coilMap? p with
  | some e => .ok e
  | none => .error .badPort

/-- The port check, then `check CTX[p].VALID = 1 else raise ConfigurationError(NOT_CONSTRUCTED)`
(rules R216, R217, R220). -/
def State.checkConstructed (s : State) (p : Code) : Except CmdError PortEntry :=
  match s.checkPort p with
  | .error err => .error err
  | .ok e => if (s.ctxOf p).valid then .ok e else .error .notConstructed

/-- The four checks of ONESTEP and STEP, in the order of rule R220: port, construction, direction, style
(rules R216 to R219). -/
def State.checkMotion (s : State) (p dir style : Code) : Except CmdError (PortEntry × Direction × Style) :=
  match s.checkConstructed p with
  | .error err => .error err
  | .ok e =>
    match directionOf dir with
    | none => .error .badDirection
    | some d =>
      match styleOf style with
      | none => .error .badStyle
      | some st => .ok (e, d, st)

end Sys2Proof.Machine
end

