-- ==== Sys2Proof/Machine/Control.lean ====
section
/-! DEFINITION. The family of spec/44_sequencer_control.md: NEW, SETSPEED and STEP. -/

namespace Sys2Proof.Machine

/-- `NEW p, spr`: construct, or construct again, the context of port `p` (rule R186). `OCRA`, `OCRB`, the latch and
the pins keep their values and no event is emitted. -/
def execNew (port : Code) (spr : Word) (s : State) : Host.Outcome State Fault Refusal :=
  match s.checkPort port with
  | .error err => .next (s.raise err)
  | .ok _ =>
    .next ((s.setCtx port
      { s.ctxOf port with valid := true, spr := spr, pos := 0#32, usps := 0#32, rem := 0#11 }).respond 0#32)

/-- `SETSPEED p, rpm`: `USPS <- 60_000_000 / (SPR · rpm)`, the product exact, `REM <- 0`; a zero product is the
arithmetic fault (rules R189, R190, R221). -/
def execSetspeed (port : Code) (rpm : Word) (s : State) : Host.Outcome State Fault Refusal :=
  match s.checkConstructed port with
  | .error err => .next (s.raise err)
  | .ok _ =>
    let d := (s.ctxOf port).spr.toNat * rpm.toNat
    if d = 0 then .next (s.raise .divByZero)
    else
      .next ((s.setCtx port
        { s.ctxOf port with usps := BitVec.ofNat 32 (60000000 / d), rem := 0#11 }).respond 0#32)

/-- The working delay of STEP: `USPS`, halved for Interleave, divided by `M` for Microstep (rule R195). -/
def stepDelay (c : Config) (style : Style) (usps : Nat) : Nat :=
  match style with
  | .single => usps
  | .double => usps
  | .interleave => usps / 2
  | .microstep => usps / c.M

/-- The trip count of STEP's main loop: the count, times `M` for Microstep, exact (rule R194). -/
def stepCount (c : Config) (style : Style) (count : Nat) : Nat :=
  match style with
  | .single => count
  | .double => count
  | .interleave => count
  | .microstep => count * c.M

/-- `STEP p, dir, style, count`: the main loop, and for Microstep the tail loop (rule R193). -/
def execStep (port dir style : Code) (count : Word) (s : State) : Host.Outcome State Fault Refusal :=
  match s.checkMotion port dir style with
  | .error err => .next (s.raise err)
  | .ok (e, d, st) =>
    let us := stepDelay s.cfg st (s.ctxOf port).usps.toNat
    let done := State.mainLoop port e d st us (stepCount s.cfg st count.toNat) s
    match st with
    | .microstep => .next ((State.tailLoop port e d us s.cfg.cycle done).respond 0#32)
    | .single => .next (done.respond 0#32)
    | .double => .next (done.respond 0#32)
    | .interleave => .next (done.respond 0#32)

end Sys2Proof.Machine
end

