-- ==== Sys2Proof/Machine/Latch.lean ====
section
/-! DEFINITION. The family of spec/40_latch_register.md: LATCHW. -/

namespace Sys2Proof.Machine

/-- `LATCHW mask, value`: masked write of the latch word, then transmission (rule R118). No check can fail. -/
def execLatchw (mask value : Byte) (s : State) : Host.Outcome State Fault Refusal :=
  .next (((s.updateLatch mask value).transmit).respond 0#32)

end Sys2Proof.Machine
end

