-- ==== Sys2Proof/Machine/Stepping.lean ====
section
/-! DEFINITION. The family of spec/43_sequencer_step.md: ONESTEP and RELEASE. -/

namespace Sys2Proof.Machine

/-- `ONESTEP p, dir, style`: one transition of the state machine; responds with the new position (rule R170). -/
def execOnestep (port dir style : Code) (s : State) : Host.Outcome State Fault Refusal :=
  match s.checkMotion port dir style with
  | .error err => .next (s.raise err)
  | .ok (e, d, st) =>
    .next ((s.oneStepCore port e d st).respond (BitVec.ofNat 32 (s.nextPos port d st)))

/-- `RELEASE p`: the port's enable bits are cleared and transmitted, both duties become 0 (rule R175). -/
def execRelease (port : Code) (s : State) : Host.Outcome State Fault Refusal :=
  match s.checkConstructed port with
  | .error err => .next (s.raise err)
  | .ok e =>
    .next (((((s.disableCoils e).transmit).programDuty port .A 0#8).programDuty port .B 0#8).respond 0#32)

end Sys2Proof.Machine
end

