-- ==== Sys2Proof/Machine/Dispatch.lean ====
section
/-! DEFINITION. One arm per command: its meaning (rule R89). -/

namespace Sys2Proof.Machine

def exec (i : Instr) (s : State) : Host.Outcome State Fault Refusal :=
  match i with
  | .new port spr => Sys2Proof.Machine.execNew port spr s
  | .setspeed port rpm => Sys2Proof.Machine.execSetspeed port rpm s
  | .onestep port dir style => Sys2Proof.Machine.execOnestep port dir style s
  | .step port dir style count => Sys2Proof.Machine.execStep port dir style count s
  | .release port => Sys2Proof.Machine.execRelease port s
  | .latchw mask value => Sys2Proof.Machine.execLatchw mask value s

end Sys2Proof.Machine
end

