-- ==== Sys2Proof/Machine/Commands.lean ====
section
/-! DEFINITION. The command port and reset (rules R98, R235 to R237): accepting the command word the host presents,
running it, resetting the block, and a reset that cuts a command short. -/

namespace Sys2Proof.Machine

/-- Acceptance: `BUSY` rises, the word is taken whole and what the host does next moves up (rules R69, R98); the
response of the command before is withdrawn (log entry 6). -/
def State.accept (s : State) (rest : List HostAction) : State :=
  { s with busy := true, rsp := none, host := rest }

/-- An accepted word runs to completion: the command it encodes, or BAD_ENCODING (rules R88, R98, R215). -/
def State.runWord (s : State) (w : Command) : Host.Outcome State Fault Refusal :=
  match decode w with
  | .ok i => exec i s
  | .error .badEncoding => .next (s.raise .badEncoding)

/-- The reset event (rules R235, R40): the block's registers take their reset values, no event is emitted, and the
environment keeps its contents (rule R238); the parameters and what the host does next are no state of the block. -/
def State.blockReset (s : State) : State :=
  { State.resetWith s.cfg with env := s.env, host := s.host }

/-- What a command left in `OUT` beyond what stood there when it was accepted. -/
def newEvents (s t : State) : List Event := t.out.drop s.out.length

/-- Reset while a command is running (rule R236): its first `k` events have happened, no response is presented, and
the block is reset. -/
def State.cutShort (s : State) (w : Command) (k : Nat) : Host.Outcome State Fault Refusal :=
  match s.runWord w with
  | .next t => .next (s.emitAll ((newEvents s t).take k)).blockReset
  | .fault r => .fault r
  | .refused r => .refused r

/-- One step of the whole: the host's next action on an idle block. A command presented while `BUSY = 1` is not
accepted (rule R98), and an idle block with nothing presented waits (rule R237); log entries 4, 5 and 7. -/
def State.advance (s : State) : Host.Outcome State Fault Refusal :=
  if s.busy then .next s
  else
    match s.host with
    | [] => .next s
    | .command w :: rest => (s.accept rest).runWord w
    | .reset :: rest => .next (State.blockReset { s with host := rest })
    | .commandThenReset w k :: rest => (s.accept rest).cutShort w k

/-- The host presents one more word, ahead of what it was going to do, to an idle block (log entry 5). -/
def State.present (s : State) (w : Command) : State :=
  { s with busy := false, host := .command w :: s.host }

end Sys2Proof.Machine
end

