-- ==== Sys2Proof/Machine/Step.lean ====
section
/-! DEFINITION. The step function and where it takes its next command from. -/

namespace Sys2Proof.Machine

/-- One step: one action of the host, a command running to completion within it (rules R7, R98; D32). -/
def step (s : State) : Host.Outcome State Fault Refusal := s.advance

/-- The state in which the host presents the command with the given table bits, so that the next step accepts and
runs it (rules R89, R98; log entries 5 and 14). -/
def State.withFetchWord (s : State) (nbits w : Nat) : State := s.present (tableCommand nbits w)

end Sys2Proof.Machine
end

