-- ==== Sys2Proof/WellFormed.lean ====
section
/-! DEFINITION. What legal parameters are (rules R131, R146) and what a well-formed command is (rules R82 to R84).
Every `Instr` encodes and every legal word decodes (rule R89); a command that is not well formed in the sense below
still runs, and is refused by its own checks (rule R220). -/

namespace Sys2Proof

/-- Rule R146: (a) `N = M + 1` entries, (c) `CURVE[0] = 0` and `CURVE[M] = 255`, (d) non-decreasing,
(e) 0 and 255 only at the two ends. (b) holds by the type `Byte`. -/
abbrev Config.CurveLegal (c : Config) : Prop :=
  c.curve.length = c.M + 1 ∧ c.curveAt 0 = 0#8 ∧ c.curveAt c.M = 255#8 ∧
  (∀ i < c.M, c.curveAt i ≤ c.curveAt (i + 1)) ∧
  (∀ i < c.M, c.curveAt (i + 1) ≠ 0#8) ∧ (∀ i < c.M, c.curveAt i ≠ 255#8)

/-- Rule R131 (a): the four bit positions of a port are distinct. -/
abbrev PortEntry.BitsDistinct (e : PortEntry) : Prop :=
  [e.bitA, e.bitB, e.bitC, e.bitD].Nodup

/-- Rule R131: (a) for each port four distinct positions, (b) different ports share no bit; the identifiers are
distinct and none is 0, which "is never a valid selector" (D11, rule R82). -/
abbrev Config.PortsLegal (c : Config) : Prop :=
  (∀ e ∈ c.ports, e.BitsDistinct ∧ e.id ≠ 0#3) ∧
  c.ports.Pairwise (fun e f => e.id ≠ f.id ∧ e.portMask &&& f.portMask = 0#8)

/-- The parameters of a block that this spec describes (rules R131, R146). -/
abbrev Config.Legal (c : Config) : Prop := c.CurveLegal ∧ c.PortsLegal

/-- Is the selector a member of `PORTS` (rule R216)? -/
def Config.hasPort (c : Config) (p : Code) : Bool := (c.coilMap? p).isSome

/-- A command whose selectors all have a meaning: a port of `PORTS`, a direction, a style (rules R82 to R84).
A word with other selectors decodes all the same (rule R89). -/
def Instr.wellFormed (c : Config) : Instr → Bool
  | .new port _ => c.hasPort port
  | .setspeed port _ => c.hasPort port
  | .onestep port dir style =>
      c.hasPort port && (Machine.directionOf dir).isSome && (Machine.styleOf style).isSome
  | .step port dir style _ =>
      c.hasPort port && (Machine.directionOf dir).isSome && (Machine.styleOf style).isSome
  | .release port => c.hasPort port
  | .latchw _ _ => true

end Sys2Proof
end

