-- ==== Sys2Proof/Safety.lean ====
section
/-! DEFINITION. The notions that claims about the block are stated in: when a command is refused (rules R213, R220),
what a good state is (rules R22, R24, R26, R27, R31, R40), what a motor being energised or released means (rule R232),
and how the events of a command are counted (rule R251). -/

namespace Sys2Proof.Machine

/-- The first error that applies to a command of the opcode map, in the order of rule R220, and `none` where none
applies; each condition is that of its own rule: R216 (port), R217 (construction), R218 (direction), R219 (style),
R221 (division by zero). -/
def State.refusal (s : State) : Instr → Option CmdError
  | .new p _ => if s.cfg.hasPort p = false then some .badPort else none
  | .setspeed p rpm =>
      if s.cfg.hasPort p = false then some .badPort
      else if (s.ctxOf p).valid = false then some .notConstructed
      else if (s.ctxOf p).spr.toNat * rpm.toNat = 0 then some .divByZero
      else none
  | .onestep p dir style =>
      if s.cfg.hasPort p = false then some .badPort
      else if (s.ctxOf p).valid = false then some .notConstructed
      else if dir ≠ 1#3 ∧ dir ≠ 2#3 then some .badDirection
      else if style = 0#3 ∨ 4#3 < style then some .badStyle
      else none
  | .step p dir style _ =>
      if s.cfg.hasPort p = false then some .badPort
      else if (s.ctxOf p).valid = false then some .notConstructed
      else if dir ≠ 1#3 ∧ dir ≠ 2#3 then some .badDirection
      else if style = 0#3 ∨ 4#3 < style then some .badStyle
      else none
  | .release p =>
      if s.cfg.hasPort p = false then some .badPort
      else if (s.ctxOf p).valid = false then some .notConstructed
      else none
  | .latchw _ _ => none

/-- The first error that applies to a command word (rule R220): BAD_ENCODING before every other. -/
def State.wordRefusal (s : State) (w : Command) : Option CmdError :=
  match decode w with
  | .ok i => s.refusal i
  | .error .badEncoding => some .badEncoding

/-- The port a command names; LATCHW names none (rule R81). -/
def portOf? : Instr → Option Code
  | .new p _ => some p
  | .setspeed p _ => some p
  | .onestep p _ _ => some p
  | .step p _ _ _ => some p
  | .release p => some p
  | .latchw _ _ => none

/-- The legal values of the registers between commands: rules R23, R24, R26 (`speed`), R27 and R200 (`rem`); a context
is valid only on a port of `PORTS`, and one that NEW has not constructed is as reset left it (rules R186, R217). -/
structure State.RegistersOk (s : State) : Prop where
  legal : s.cfg.Legal
  idle : s.busy = false
  pos : ∀ p, s.posOf p < s.cfg.cycle
  speed : ∀ p, (s.ctxOf p).usps = 0#32 ∨
    ∃ rpm : Word, (s.ctxOf p).spr.toNat * rpm.toNat ≠ 0 ∧
      (s.ctxOf p).usps.toNat = 60000000 / ((s.ctxOf p).spr.toNat * rpm.toNat)
  rem : ∀ p, (s.ctxOf p).rem.toNat ≤ 1000
  ports : ∀ p, (s.ctxOf p).valid = true → s.cfg.hasPort p = true
  fresh : ∀ p, (s.ctxOf p).valid = false → s.ctxOf p = Ctx.reset

/-- Has a pin been driven since reset? -/
def State.Transmitted (s : State) : Prop := ∃ pin level, Event.w pin level ∈ s.out

/-- `LATCH` "always equals the last word transmitted, except between reset and the first transmission" (rules R22,
R40), the pins stand as a TRANSMIT leaves them (rule R32), and the receiver holds the word (rule R62). -/
structure State.LinesOk (s : State) : Prop where
  before : ¬ s.Transmitted → s.latch = 0#8 ∧ s.pins = Pins.low
  after : s.Transmitted →
    s.pins = { serLatch := true, serData := s.latch.getLsbD 0, serClk := true } ∧
      s.env.sr = s.latch ∧ s.env.q = s.latch

/-- `OCRA`/`OCRB` "always equal the duty last sent to the PWM peripheral for that port, except between reset and the
first `PwmSet`" (rules R31, R40). -/
structure State.DutiesOk (s : State) : Prop where
  before : ∀ p chan, (∀ v, Event.pwmSet p chan v ∉ s.out) → (s.ctxOf p).ocr chan = 0#8
  after : ∀ p chan v, Event.pwmSet p chan v ∈ s.out → s.env.duty p chan = (s.ctxOf p).ocr chan

/-- Energised: "at least one enable bit of the port is 1" (rule R232). -/
def State.Energised (s : State) (e : PortEntry) : Prop := s.latch &&& e.portMask ≠ 0#8

/-- Released: "all four enable bits 0 and both duties 0" (rule R232). -/
def State.Released (s : State) (p : Code) (e : PortEntry) : Prop :=
  s.latch &&& e.portMask = 0#8 ∧ (s.ctxOf p).ocrA = 0#8 ∧ (s.ctxOf p).ocrB = 0#8

/-- Is the event a pin write? -/
def Event.isW : Event → Bool
  | .w _ _ => true
  | .pwmSet _ _ _ => false
  | .delay _ => false

/-- Is the event a duty write? -/
def Event.isPwm : Event → Bool
  | .w _ _ => false
  | .pwmSet _ _ _ => true
  | .delay _ => false

/-- Is the event a delay request? -/
def Event.isDelay : Event → Bool
  | .w _ _ => false
  | .pwmSet _ _ _ => false
  | .delay _ => true

/-- The milliseconds an event requests. -/
def Event.ms : Event → Nat
  | .w _ _ => 0
  | .pwmSet _ _ _ => 0
  | .delay ms => ms.toNat

/-- The milliseconds a list of events requests in all. -/
def totalMs (es : List Event) : Nat := (es.map Event.ms).sum

/-- The number of tail iterations from the position `x` the main loop left: the table of rule R197. -/
def tailCount (c : Config) (dir : Direction) (x : Nat) : Nat :=
  match dir with
  | .forward => if x = 0 ∨ x = c.M then 0 else if x < c.M then c.M - x else 4 * c.M - x
  | .backward => if x = 0 ∨ x = c.M then 0 else if x < c.M then x else x - c.M

/-- The position `n` microsteps from `pos` round the cycle (rules R164, R167). -/
def microstepsFrom (c : Config) (dir : Direction) (pos n : Nat) : Nat :=
  match dir with
  | .forward => (pos + n) % c.cycle
  | .backward => (pos + c.cycle * n - n) % c.cycle

/-- The steps STEP takes in all, main loop and tail loop (rules R194, R197, R251). -/
def stepsTaken (c : Config) (dir : Direction) (style : Style) (pos count : Nat) : Nat :=
  match style with
  | .single => count
  | .double => count
  | .interleave => count
  | .microstep => count * c.M + tailCount c dir (microstepsFrom c dir pos (count * c.M))

/-- Two contexts that differ at most in the pacing registers `USPS` and `REM` (rules R26, R27). -/
def Ctx.SameButPacing (x y : Ctx) : Prop :=
  x.valid = y.valid ∧ x.spr = y.spr ∧ x.pos = y.pos ∧ x.ocrA = y.ocrA ∧ x.ocrB = y.ocrB

/-- Two states that differ at most in the pacing registers and in the delay requests of `OUT` (rule R185). -/
structure State.SameButPacing (s u : State) : Prop where
  latch : s.latch = u.latch
  ctx : ∀ p, (s.ctxOf p).SameButPacing (u.ctxOf p)
  pins : s.pins = u.pins
  out : s.out.filter (fun e => !e.isDelay) = u.out.filter (fun e => !e.isDelay)
  busy : s.busy = u.busy
  rsp : s.rsp = u.rsp
  cfg : s.cfg = u.cfg
  env : s.env = u.env
  host : s.host = u.host

end Sys2Proof.Machine
end

