-- ==== Sys2Proof/Certificates/Slice0/Obligations.lean ====
section
/-! DEFINITION. The statements for the provers: what spec/ says the commands, the command port, reset and the block's
outputs do. Each docstring names the rules a statement formalises. Refusals are written with their response words:
`0x4800000000` BAD_ENCODING, `0x5000000000` BAD_PORT, `0x5800000000` NOT_CONSTRUCTED, `0x6000000000` BAD_DIRECTION,
`0x6800000000` BAD_STYLE, `0x8800000000` DIV_BY_ZERO. -/

open Sys2Proof Sys2Proof.Machine

/-! ## The command encoding (spec/30_encoding.md) -/

/-- Rules R80, R89: the decoder gives every command back from its encoding, with every operand value. -/
def Obligations.DecodeGivesBackEveryEncodedCommand : Prop :=
  ∀ i : Instr, decode (encode i) = .ok i

/-- Rules R87, R89, R91: a word that decodes is the encoding of what it decodes to, so that no two words are one
command and no bit of a legal word is ignored. -/
def Obligations.EncodeGivesBackEveryDecodedWord : Prop :=
  ∀ (w : Command) (i : Instr), decode w = .ok i → encode i = w

/-- Rule R88: the illegal words, by fields: `op = 0`, `op ∈ 7..15`, or a must-be-zero bit of rule R81's table set.
Each is refused with BAD_ENCODING, no state change and no event; the bits of `host` are the host's, not the block's. -/
def Obligations.IllegalWordsAreRefused : Prop :=
  ∀ (s : State) (w : Command) (rest : List HostAction), s.busy = false → s.host = .command w :: rest →
    let illegal :=
      opField w = 0#4 ∨ 7#4 ≤ opField w ∨ rsvField w ≠ 0#3 ∨
      ((opField w = 1#4 ∨ opField w = 2#4 ∨ opField w = 5#4 ∨ opField w = 6#4) ∧
        (dirField w ≠ 0#3 ∨ styleField w ≠ 0#3)) ∨
      ((opField w = 3#4 ∨ opField w = 5#4) ∧ immField w ≠ 0#32) ∨
      (opField w = 6#4 ∧ (portField w ≠ 0#3 ∨ (immField w).extractLsb' 16 16 ≠ 0#16))
    (decode w = .error .badEncoding ↔ illegal) ∧
    (illegal → step s = .next { s with host := rest, rsp := some 0x4800000000#40 })

/-- Rule R100: worked encodings, one or more of each command, decode to the commands the table names. -/
def Obligations.WorkedEncodingsDecode : Prop :=
  decode 0x1400000000C8#48 = .ok (.new 2#3 200#32) ∧
  decode 0x24000000003C#48 = .ok (.setspeed 2#3 60#32) ∧
  decode 0x344800000000#48 = .ok (.onestep 2#3 1#3 1#3) ∧
  decode 0x32A000000000#48 = .ok (.onestep 1#3 2#3 4#3) ∧
  decode 0x4448000000C8#48 = .ok (.step 2#3 1#3 1#3 200#32) ∧
  decode 0x446000000010#48 = .ok (.step 2#3 1#3 4#3 16#32) ∧
  decode 0x540000000000#48 = .ok (.release 2#3) ∧
  decode 0x60000000FF00#48 = .ok (.latchw 0xFF#8 0x00#8) ∧
  decode 0x600000001E04#48 = .ok (.latchw 0x1E#8 0x04#8)

/-- Rules R95, R211, R212: the response words of the six errors. -/
def Obligations.ErrorResponsesAreTheCodesOfTheSpec : Prop :=
  errorResponse .badEncoding = 0x4800000000#40 ∧ errorResponse .badPort = 0x5000000000#40 ∧
  errorResponse .notConstructed = 0x5800000000#40 ∧ errorResponse .badDirection = 0x6000000000#40 ∧
  errorResponse .badStyle = 0x6800000000#40 ∧ errorResponse .divByZero = 0x8800000000#40

/-! ## The command port (rules R30, R98) and errors (spec/60_exceptions.md) -/

/-- Rules R69, R98: on an idle block the step accepts the word the host presents and runs the command it decodes to.
Around the command itself: `BUSY` rises, the response port is withdrawn (log entry 6) and the host moves on. -/
def Obligations.StepRunsTheDecodedCommand : Prop :=
  ∀ (s : State) (w : Command) (rest : List HostAction) (i : Instr),
    s.busy = false → s.host = .command w :: rest → decode w = .ok i →
    step s = exec i { s with busy := true, rsp := none, host := rest }

/-- Rules R98, R237: a command presented while `BUSY = 1` is not accepted, and an idle block with nothing presented
waits; that such a step changes nothing is the model's choice (log entries 4 and 7). -/
def Obligations.BusyOrUnaskedBlockWaits : Prop :=
  ∀ s : State, (s.busy = true → step s = .next s) ∧ (s.busy = false → s.host = [] → step s = .next s)

/-- Rule R98: every accepted command, whatever its word, ends with exactly one response and `BUSY` low, and the host's
next action is next. -/
def Obligations.EveryAcceptedCommandIsAnswered : Prop :=
  ∀ (s : State) (w : Command) (rest : List HostAction), s.busy = false → s.host = .command w :: rest →
    ∃ t r, step s = .next t ∧ t.rsp = some r ∧ t.busy = false ∧ t.host = rest ∧ t.cfg = s.cfg

/-- Rules R214, R223, R225: no step ever stops with a fault or a refusal. -/
def Obligations.NoStepStops : Prop :=
  ∀ s : State, ∃ t, step s = .next t

/-- Rules R95, R211, R212, U17: the response of any command word has bits 34:32 zero and one of the seven pairs of
status and cause; its value is 0 but for an ONESTEP that succeeds. -/
def Obligations.ResponsesHaveTheListedCodes : Prop :=
  ∀ (s t : State) (w : Command) (rest : List HostAction) (r : Response),
    s.busy = false → s.host = .command w :: rest → step s = .next t → t.rsp = some r →
    r.extractLsb' 32 3 = 0#3 ∧
    (r.extractLsb' 38 2, r.extractLsb' 35 3) ∈
      [(0#2, 0#3), (1#2, 1#3), (1#2, 2#3), (1#2, 3#3), (1#2, 4#3), (1#2, 5#3), (2#2, 1#3)] ∧
    (r.extractLsb' 0 32 ≠ 0#32 → r.extractLsb' 38 2 = 0#2 ∧ opField w = 3#4)

/-- Rule R214: a command whose response carries an error leaves `LATCH`, every context, the pins, `OUT` and the
environment exactly as they were; its response is the status and the cause of an error that applies, with value 0. -/
def Obligations.RefusedCommandsLeaveNoTrace : Prop :=
  ∀ (s t : State) (w : Command) (rest : List HostAction) (r : Response),
    s.busy = false → s.host = .command w :: rest → step s = .next t → t.rsp = some r →
    r.extractLsb' 38 2 ≠ 0#2 →
    t = { s with host := rest, rsp := some r } ∧
    (∃ err, s.wordRefusal w = some err ∧ r = errorResponse err) ∧ r.extractLsb' 0 32 = 0#32

/-- Rule R220 (with R213, R216 to R219, R221): the error reported is the first that applies, in the rule's order, and
a word to which none applies is answered OK. -/
def Obligations.TheFirstErrorIsReported : Prop :=
  ∀ (s : State) (w : Command) (rest : List HostAction), s.busy = false → s.host = .command w :: rest →
    (∀ err, s.wordRefusal w = some err →
      ∃ t, step s = .next t ∧ t.rsp = some (errorResponse err)) ∧
    (s.wordRefusal w = none → ∃ t v, step s = .next t ∧ t.rsp = some (okResponse v))

/-! ## NEW, SETSPEED (spec/44_sequencer_control.md) -/

/-- Rule R186: NEW sets five fields of the context of a port of `PORTS`, and changes nothing else; on another port code
it is refused with BAD_PORT. -/
def Obligations.NewConstructsTheContext : Prop :=
  ∀ (s : State) (p : Code) (spr : Word),
    (s.cfg.hasPort p = false →
      exec (.new p spr) s = .next { s with rsp := some 0x5000000000#40, busy := false }) ∧
    (s.cfg.hasPort p = true → ∃ t, exec (.new p spr) s = .next t ∧
      t.ctxOf p = { s.ctxOf p with valid := true, spr := spr, pos := 0#32, usps := 0#32, rem := 0#11 } ∧
      (∀ p', p' ≠ p → t.ctxOf p' = s.ctxOf p') ∧
      t.latch = s.latch ∧ t.pins = s.pins ∧ t.out = s.out ∧ t.env = s.env ∧ t.cfg = s.cfg ∧ t.host = s.host ∧
      t.rsp = some 0#40 ∧ t.busy = false)

/-- Rules R189, R190: SETSPEED stores `60_000_000 / (SPR · rpm)` of the exact product and clears the remainder; a zero
product is the arithmetic fault and changes nothing; the checks of port and construction come before. -/
def Obligations.SetspeedStoresTheQuotient : Prop :=
  ∀ (s : State) (p : Code) (rpm : Word),
    let d := (s.ctxOf p).spr.toNat * rpm.toNat
    (s.cfg.hasPort p = false →
      exec (.setspeed p rpm) s = .next { s with rsp := some 0x5000000000#40, busy := false }) ∧
    (s.cfg.hasPort p = true → (s.ctxOf p).valid = false →
      exec (.setspeed p rpm) s = .next { s with rsp := some 0x5800000000#40, busy := false }) ∧
    (s.cfg.hasPort p = true → (s.ctxOf p).valid = true → d = 0 →
      exec (.setspeed p rpm) s = .next { s with rsp := some 0x8800000000#40, busy := false }) ∧
    (s.cfg.hasPort p = true → (s.ctxOf p).valid = true → d ≠ 0 → ∃ t, exec (.setspeed p rpm) s = .next t ∧
      (t.ctxOf p).usps.toNat = 60000000 / d ∧ (60000000 < d → (t.ctxOf p).usps = 0#32) ∧
      t.ctxOf p = { s.ctxOf p with usps := (t.ctxOf p).usps, rem := 0#11 } ∧
      (∀ p', p' ≠ p → t.ctxOf p' = s.ctxOf p') ∧
      t.latch = s.latch ∧ t.pins = s.pins ∧ t.out = s.out ∧ t.env = s.env ∧ t.cfg = s.cfg ∧ t.host = s.host ∧
      t.rsp = some 0#40 ∧ t.busy = false)

/-! ## ONESTEP, RELEASE (spec/43_sequencer_step.md) -/

/-- Rule R170: ONESTEP. A failing check refuses it; otherwise the new position is NEWPOS of DELTA of the position
before, the latch word and the duties are those of the new position, the 29 events are TRANSMIT of the new word, then
`PwmSet` A, then `PwmSet` B, the response carries the position, and nothing else changes. -/
def Obligations.OnestepTakesOneTransition : Prop :=
  ∀ (s : State) (p dir style : Code),
    (∀ err, s.refusal (.onestep p dir style) = some err →
      exec (.onestep p dir style) s = .next { s with rsp := some (errorResponse err), busy := false }) ∧
    ∀ (e : PortEntry) (d : Direction) (st : Style), s.cfg.coilMap? p = some e → (s.ctxOf p).valid = true →
      directionOf dir = some d → styleOf style = some st →
      let pos := newPos s.cfg (s.posOf p) d (delta s.cfg st (s.posOf p))
      ∃ t, exec (.onestep p dir style) s = .next t ∧
        t.posOf p = pos ∧ pos < 4 * s.cfg.M ∧
        t.ctxOf p = { s.ctxOf p with
          pos := BitVec.ofNat 32 pos, ocrA := (duty s.cfg pos).1, ocrB := (duty s.cfg pos).2 } ∧
        (∀ p', p' ≠ p → t.ctxOf p' = s.ctxOf p') ∧
        t.latch = (s.latch &&& ~~~e.portMask) ||| e.enBits (enables s.cfg st pos) ∧
        t.out = s.out ++ transmitEvents t.latch ++
          [.pwmSet p .A (duty s.cfg pos).1, .pwmSet p .B (duty s.cfg pos).2] ∧
        t.pins = { serLatch := true, serData := t.latch.getLsbD 0, serClk := true } ∧
        t.env.duty p .A = (duty s.cfg pos).1 ∧ t.env.duty p .B = (duty s.cfg pos).2 ∧
        (∀ p' chan, p' ≠ p → t.env.duty p' chan = s.env.duty p' chan) ∧
        t.cfg = s.cfg ∧ t.host = s.host ∧
        t.rsp = some (0#8 ++ BitVec.ofNat 32 pos) ∧ t.busy = false

/-- Rules R83, R84: direction code 1 is Forward and 2 is Backward; style codes 1 to 4 are Single, Double, Interleave
and Microstep; no other code is a direction or a style. -/
def Obligations.CodesNameDirectionsAndStyles : Prop :=
  ∀ code : Code,
    (directionOf code = some .forward ↔ code = 1#3) ∧ (directionOf code = some .backward ↔ code = 2#3) ∧
    (directionOf code = none ↔ code = 0#3 ∨ 3#3 ≤ code) ∧
    (styleOf code = some .single ↔ code = 1#3) ∧ (styleOf code = some .double ↔ code = 2#3) ∧
    (styleOf code = some .interleave ↔ code = 3#3) ∧ (styleOf code = some .microstep ↔ code = 4#3) ∧
    (styleOf code = none ↔ code = 0#3 ∨ 5#3 ≤ code)

/-- Rules R83, R84, R135 to R137, R161, R162, R164, R168: what ONESTEP does for each code, in numbers. Direction 1 adds
and direction 2 subtracts, round the cycle; style 1 moves `H` from an odd half-step index and else `M`, style 2 the
reverse, style 3 moves `H` and style 4 moves 1; the port's bits are then those the tables list at the new position. -/
def Obligations.OnestepMovesByItsCodes : Prop :=
  ∀ (s : State) (p dir style : Code) (e : PortEntry), s.cfg.coilMap? p = some e → (s.ctxOf p).valid = true →
    dir = 1#3 ∨ dir = 2#3 → style = 1#3 ∨ style = 2#3 ∨ style = 3#3 ∨ style = 4#3 →
    let M := s.cfg.M
    let H := s.cfg.H
    let x := s.posOf p
    let d :=
      if style = 1#3 then (if x / H % 2 = 1 then H else M)
      else if style = 2#3 then (if x / H % 2 = 1 then M else H)
      else if style = 3#3 then H else 1
    let pos := if dir = 1#3 then (x + d) % (4 * M) else (x + 4 * M - d) % (4 * M)
    let coils : List Coil :=
      if style = 4#3 then [[.A, .B], [.B, .C], [.C, .D], [.D, .A]].getD (pos / M) []
      else [[.A], [.A, .B], [.B], [.B, .C], [.C], [.C, .D], [.D], [.D, .A]].getD (pos / H) []
    ∃ t, exec (.onestep p dir style) s = .next t ∧ t.posOf p = pos ∧
      t.latch = (s.latch &&& ~~~e.portMask) ||| e.enBits coils

/-- Rules R138, R139, R232: a port is energised after every ONESTEP on it, with a legal coil map. -/
def Obligations.OnestepEnergisesThePort : Prop :=
  ∀ (s : State) (p dir style : Code) (e : PortEntry) (d : Direction) (st : Style), s.cfg.Legal →
    s.cfg.coilMap? p = some e → (s.ctxOf p).valid = true → directionOf dir = some d → styleOf style = some st →
    ∃ t, exec (.onestep p dir style) s = .next t ∧ t.Energised e

/-- Rule R175: RELEASE clears the port's enable bits, transmits, programs both duties 0, and changes nothing else; the
checks of port and construction come before. -/
def Obligations.ReleaseDeenergisesThePort : Prop :=
  ∀ (s : State) (p : Code),
    (∀ err, s.refusal (.release p) = some err →
      exec (.release p) s = .next { s with rsp := some (errorResponse err), busy := false }) ∧
    ∀ e, s.cfg.coilMap? p = some e → (s.ctxOf p).valid = true →
      ∃ t, exec (.release p) s = .next t ∧ t.Released p e ∧
        t.latch = s.latch &&& ~~~e.portMask ∧
        t.ctxOf p = { s.ctxOf p with ocrA := 0#8, ocrB := 0#8 } ∧
        (∀ p', p' ≠ p → t.ctxOf p' = s.ctxOf p') ∧
        t.out = s.out ++ transmitEvents t.latch ++ [.pwmSet p .A 0#8, .pwmSet p .B 0#8] ∧
        t.pins = { serLatch := true, serData := t.latch.getLsbD 0, serClk := true } ∧
        t.env.duty p .A = 0#8 ∧ t.env.duty p .B = 0#8 ∧
        (∀ p' chan, p' ≠ p → t.env.duty p' chan = s.env.duty p' chan) ∧
        t.cfg = s.cfg ∧ t.host = s.host ∧ t.rsp = some 0#40 ∧ t.busy = false

/-- Rule R176 (a): a second RELEASE changes no register, no pin and no output of the environment, and emits its 29
events again. -/
def Obligations.ReleaseIsIdempotent : Prop :=
  ∀ (s : State) (p : Code), s.cfg.hasPort p = true → (s.ctxOf p).valid = true →
    ∃ t u, exec (.release p) s = .next t ∧ exec (.release p) t = .next u ∧
      u.latch = t.latch ∧ (∀ p', u.ctxOf p' = t.ctxOf p') ∧ u.pins = t.pins ∧
      u.env.sr = t.env.sr ∧ u.env.q = t.env.q ∧ (∀ p' chan, u.env.duty p' chan = t.env.duty p' chan) ∧
      ∃ es, es.length = 29 ∧ t.out = s.out ++ es ∧ u.out = t.out ++ es

/-! ## STEP and its pacing (spec/44_sequencer_control.md) -/

/-- Rules R194, R195, R196: STEP in a style other than Microstep is exactly `count` iterations of ONESTEP_CORE and
PACE, in that order, with the delay `USPS`, halved for Interleave; a failing check refuses it before the first step. The
last clause says what the iterations are, in every style: none for 0, else one step, its pacing, and the rest. -/
def Obligations.StepRepeatsTheStepCountTimes : Prop :=
  ∀ (s : State) (p dir style : Code) (count : Word),
    (∀ err, s.refusal (.step p dir style count) = some err →
      exec (.step p dir style count) s = .next { s with rsp := some (errorResponse err), busy := false }) ∧
    (∀ (e : PortEntry) (d : Direction) (st : Style), s.cfg.coilMap? p = some e → (s.ctxOf p).valid = true →
      directionOf dir = some d → styleOf style = some st → st ≠ .microstep →
      let us := if st = .interleave then (s.ctxOf p).usps.toNat / 2 else (s.ctxOf p).usps.toNat
      exec (.step p dir style count) s =
        .next { State.mainLoop p e d st us count.toNat s with rsp := some 0#40, busy := false }) ∧
    ∀ (e : PortEntry) (d : Direction) (st : Style) (us n : Nat),
      State.mainLoop p e d st us 0 s = s ∧
      State.mainLoop p e d st us (n + 1) s = State.mainLoop p e d st us n ((s.oneStepCore p e d st).pace p us)

/-- Rules R193, R196, R199: one iteration of STEP, in every style, is the ONESTEP of the same operands without its
response, then PACE: its events are TRANSMIT of the new latch word, `PwmSet` A, `PwmSet` B, then one `Delay` or two. -/
def Obligations.OneIterationIsOnestepThenPace : Prop :=
  ∀ (s : State) (p dir style : Code) (us : Nat) (e : PortEntry) (d : Direction) (st : Style),
    s.cfg.coilMap? p = some e → (s.ctxOf p).valid = true → directionOf dir = some d → styleOf style = some st →
    let u := State.mainLoop p e d st us 1 s
    ∃ t, exec (.onestep p dir style) s = .next t ∧
      u = { t.pace p us with rsp := s.rsp, busy := s.busy } ∧
      u.out = s.out ++ transmitEvents t.latch ++
        [.pwmSet p .A (t.ctxOf p).ocrA, .pwmSet p .B (t.ctxOf p).ocrB] ++
        (if (s.ctxOf p).rem.toNat + us % 1000 > 1000 then [.delay (BitVec.ofNat 32 (us / 1000)), .delay 1#32]
         else [.delay (BitVec.ofNat 32 (us / 1000))])

/-- Rules R193, R194, R195, R197: a Microstep STEP is exactly `count · M + t` iterations, `t` the table's number of
tail iterations (at most `3·M − 1`), and leaves the position at 0 or `M` as the table says. -/
def Obligations.MicrostepStepRunsToRest : Prop :=
  ∀ (s : State) (p dir style : Code) (count : Word) (e : PortEntry) (d : Direction),
    s.cfg.coilMap? p = some e → (s.ctxOf p).valid = true → directionOf dir = some d →
    styleOf style = some .microstep → s.posOf p < 4 * s.cfg.M →
    let M := s.cfg.M
    let x := microstepsFrom s.cfg d (s.posOf p) (count.toNat * M)
    let k := count.toNat * M + tailCount s.cfg d x
    ∃ t, exec (.step p dir style count) s = .next t ∧
      t = { State.mainLoop p e d .microstep ((s.ctxOf p).usps.toNat / M) k s with rsp := some 0#40, busy := false } ∧
      tailCount s.cfg d x ≤ 3 * M - 1 ∧
      t.posOf p = (match d with
        | .forward => if x = 0 ∨ x = M then x else if x < M then M else 0
        | .backward => if x = 0 ∨ x = M then x else if x < M then 0 else M)

/-- Rule R201 (e): the position after a STEP of another style is the closed-form sum of the deltas. -/
def Obligations.StepEndsAtTheClosedFormPosition : Prop :=
  ∀ (s : State) (p dir style : Code) (count : Word) (e : PortEntry) (d : Direction) (st : Style),
    s.cfg.coilMap? p = some e → (s.ctxOf p).valid = true → directionOf dir = some d →
    styleOf style = some st → st ≠ .microstep → s.posOf p < 4 * s.cfg.M →
    let n := count.toNat
    let even := halfIndex s.cfg (s.posOf p) % 2 = 0
    let total := match st with
      | .single => if even ∨ n = 0 then n * s.cfg.M else s.cfg.H + (n - 1) * s.cfg.M
      | .double => if ¬ even ∨ n = 0 then n * s.cfg.M else s.cfg.H + (n - 1) * s.cfg.M
      | .interleave => n * s.cfg.H
      | .microstep => 0
    ∃ t, exec (.step p dir style count) s = .next t ∧
      t.posOf p = (match d with
        | .forward => (s.posOf p + total) % (4 * s.cfg.M)
        | .backward => (s.posOf p + 4 * s.cfg.M * n - total) % (4 * s.cfg.M))

/-- Rules R168, R170, R193: a STEP that takes at least one step leaves the port's latch bits and duties at those of
its final position; steps per revolution, speed and validity stay, and so do the other contexts, whatever `k`. -/
def Obligations.StepEndsInThePhaseOfItsPosition : Prop :=
  ∀ (s : State) (p dir style : Code) (count : Word) (e : PortEntry) (d : Direction) (st : Style),
    s.cfg.coilMap? p = some e → (s.ctxOf p).valid = true → directionOf dir = some d →
    styleOf style = some st → s.posOf p < 4 * s.cfg.M →
    ∃ t, exec (.step p dir style count) s = .next t ∧
      (t.ctxOf p).valid = true ∧ (t.ctxOf p).spr = (s.ctxOf p).spr ∧ (t.ctxOf p).usps = (s.ctxOf p).usps ∧
      (∀ p', p' ≠ p → t.ctxOf p' = s.ctxOf p') ∧ t.cfg = s.cfg ∧ t.host = s.host ∧
      t.rsp = some 0#40 ∧ t.busy = false ∧
      (if stepsTaken s.cfg d st (s.posOf p) count.toNat = 0 then
        t = { s with rsp := some 0#40, busy := false }
      else
        t.latch = (s.latch &&& ~~~e.portMask) ||| e.enBits (enables s.cfg st (t.posOf p)) ∧
        (t.ctxOf p).ocrA = (duty s.cfg (t.posOf p)).1 ∧ (t.ctxOf p).ocrB = (duty s.cfg (t.posOf p)).2 ∧
        t.env.duty p .A = (t.ctxOf p).ocrA ∧ t.env.duty p .B = (t.ctxOf p).ocrB ∧
        t.pins = { serLatch := true, serData := t.latch.getLsbD 0, serClk := true })

/-- Rules R193, R196: a STEP of `m + n` is a STEP of `m` followed by a STEP of `n`, position, outputs and pacing
remainder included, in every style without a tail loop. -/
def Obligations.StepCountsAdd : Prop :=
  ∀ (s t u v : State) (p dir style : Code) (m n : Word), style ≠ 4#3 → m.toNat + n.toNat < 2 ^ 32 →
    exec (.step p dir style (m + n)) s = .next t →
    exec (.step p dir style m) s = .next u → exec (.step p dir style n) u = .next v → v = t

/-- Rule R251's table: the number of pin writes, duty writes and delay requests each command adds to `OUT`. -/
def Obligations.CommandsEmitTheListedNumberOfEvents : Prop :=
  ∀ (s t : State) (i : Instr), exec i s = .next t → (∀ p, s.posOf p < 4 * s.cfg.M) →
    ∃ es, t.out = s.out ++ es ∧
      let w := es.countP Event.isW
      let pwm := es.countP Event.isPwm
      let del := es.countP Event.isDelay
      (if (s.refusal i).isSome then es = []
      else match i with
        | .new _ _ => es = []
        | .setspeed _ _ => es = []
        | .latchw _ _ => w = 27 ∧ pwm = 0 ∧ del = 0
        | .onestep _ _ _ => w = 27 ∧ pwm = 2 ∧ del = 0
        | .release _ => w = 27 ∧ pwm = 2 ∧ del = 0
        | .step p dir style count =>
          ∀ d st, directionOf dir = some d → styleOf style = some st →
            let k := stepsTaken s.cfg d st (s.posOf p) count.toNat
            w = 27 * k ∧ pwm = 2 * k ∧ k ≤ del ∧ del ≤ 2 * k)

/-- Rule R199: PACE requests the whole milliseconds, adds the rest to the remainder, and requests one millisecond more
exactly when the remainder then exceeds 1000, and changes nothing else. From a remainder of at most 1000 the sum is at
most 1999 and the new remainder at most 1000 (rule R200, which the spec derives). -/
def Obligations.PaceRequestsAndCarries : Prop :=
  ∀ (s : State) (p : Code) (us : Nat), us ≤ 60000000 → (s.ctxOf p).rem.toNat ≤ 1000 →
    let r := (s.ctxOf p).rem.toNat + us % 1000
    ∃ r' : Nat, r' = (if r > 1000 then r - 1000 else r) ∧ r ≤ 1999 ∧ r' ≤ 1000 ∧
      (s.pace p us).ctxOf p = { s.ctxOf p with rem := BitVec.ofNat 11 r' } ∧
      ((s.pace p us).ctxOf p).rem.toNat = r' ∧
      (∀ p', p' ≠ p → (s.pace p us).ctxOf p' = s.ctxOf p') ∧
      (s.pace p us).out = s.out ++
        (if r > 1000 then [.delay (BitVec.ofNat 32 (us / 1000)), .delay 1#32]
         else [.delay (BitVec.ofNat 32 (us / 1000))]) ∧
      (s.pace p us).latch = s.latch ∧ (s.pace p us).pins = s.pins ∧ (s.pace p us).env = s.env ∧
      (s.pace p us).cfg = s.cfg ∧ (s.pace p us).host = s.host ∧
      (s.pace p us).busy = s.busy ∧ (s.pace p us).rsp = s.rsp

/-- Rules R195, R199: STEP's pacing loses no microsecond: the requested milliseconds and the remainder it leaves are
together the remainder it found and `us` for each step it takes. -/
def Obligations.PacingLosesNoTime : Prop :=
  ∀ (s : State) (p dir style : Code) (count : Word) (e : PortEntry) (d : Direction) (st : Style),
    s.cfg.coilMap? p = some e → (s.ctxOf p).valid = true → directionOf dir = some d →
    styleOf style = some st → s.posOf p < 4 * s.cfg.M →
    ∃ t es, exec (.step p dir style count) s = .next t ∧ t.out = s.out ++ es ∧
      1000 * totalMs es + (t.ctxOf p).rem.toNat =
        (s.ctxOf p).rem.toNat +
          stepsTaken s.cfg d st (s.posOf p) count.toNat * stepDelay s.cfg st (s.ctxOf p).usps.toNat

/-! ## LATCHW, TRANSMIT and the receiver (spec/40_latch_register.md, spec/20_memory.md) -/

/-- Rule R118: LATCHW writes the latch word under its mask, transmits it, and touches no context and no duty. -/
def Obligations.LatchwWritesUnderItsMask : Prop :=
  ∀ (s : State) (mask value : Byte), ∃ t, exec (.latchw mask value) s = .next t ∧
    t.latch = (s.latch &&& ~~~mask) ||| (value &&& mask) ∧
    t.out = s.out ++ transmitEvents t.latch ∧
    t.pins = { serLatch := true, serData := t.latch.getLsbD 0, serClk := true } ∧
    (∀ p, t.ctxOf p = s.ctxOf p) ∧ (∀ p chan, t.env.duty p chan = s.env.duty p chan) ∧
    t.cfg = s.cfg ∧ t.host = s.host ∧ t.rsp = some 0#40 ∧ t.busy = false

/-- Rules R93, R120: `TX word` makes the latch word, the receiver's shadow register and the eight enable lines equal
to `word`, whatever they were. -/
def Obligations.TxBringsTheLinesToTheWord : Prop :=
  ∀ (s : State) (word : Byte), ∃ t, exec (.latchw 0xFF#8 word) s = .next t ∧
    t.latch = word ∧ t.env.sr = word ∧ t.env.q = word

/-- Rule R111: TRANSMIT performs exactly the 27 pin writes, most significant bit first, and writes nothing but the pins
and `OUT`. -/
def Obligations.TransmitIsTheTwentySevenWrites : Prop :=
  ∀ s : State, let w := s.latch
    s.transmit.out = s.out ++
      [.w .serLatch false, .w .serData false,
       .w .serClk false, .w .serData (w.getLsbD 7), .w .serClk true,
       .w .serClk false, .w .serData (w.getLsbD 6), .w .serClk true,
       .w .serClk false, .w .serData (w.getLsbD 5), .w .serClk true,
       .w .serClk false, .w .serData (w.getLsbD 4), .w .serClk true,
       .w .serClk false, .w .serData (w.getLsbD 3), .w .serClk true,
       .w .serClk false, .w .serData (w.getLsbD 2), .w .serClk true,
       .w .serClk false, .w .serData (w.getLsbD 1), .w .serClk true,
       .w .serClk false, .w .serData (w.getLsbD 0), .w .serClk true,
       .w .serLatch true] ∧
    s.transmit.latch = s.latch ∧ s.transmit.ctx = s.ctx ∧ s.transmit.cfg = s.cfg ∧ s.transmit.host = s.host ∧
    s.transmit.busy = s.busy ∧ s.transmit.rsp = s.rsp ∧
    s.transmit.pins = { serLatch := true, serData := w.getLsbD 0, serClk := true }

/-- Rule R62: after the 27 events of `TRANSMIT(w)` the receiver holds `w` in both registers, for every prior `SR`, `Q`
and pin levels, and `Q` changes only at the last event. -/
def Obligations.ReceiverHoldsTheTransmittedWord : Prop :=
  ∀ (s : State) (w : Byte),
    (s.emitAll (transmitEvents w)).env.sr = w ∧ (s.emitAll (transmitEvents w)).env.q = w ∧
    (transmitEvents w).length = 27 ∧
    ∀ k < 27, (s.emitAll ((transmitEvents w).take k)).env.q = s.env.q

/-! ## The tables (spec/41_coil_phase_table.md, spec/42_microstep_duty.md) and the position update -/

/-- Rules R132, R147: the default tables meet the constraints of rules R131 and R146, with both curves. -/
def Obligations.DefaultTablesAreLegal : Prop :=
  defaultConfig.Legal ∧ defaultConfig9.Legal ∧ defaultConfig.M = 16 ∧ defaultConfig9.M = 8

/-- Rule R139 (a), (b): every enable set has one or two members, and never both polarities of one coil. -/
def Obligations.EnableSetsDriveNoCoilBothWays : Prop :=
  ∀ (c : Config) (style : Style) (pos : Nat),
    let S := enables c style pos
    1 ≤ S.length ∧ S.length ≤ 2 ∧ S.Nodup ∧ ¬ (.A ∈ S ∧ .C ∈ S) ∧ ¬ (.B ∈ S ∧ .D ∈ S)

/-- Rules R135, R136, R137: the enable sets, entry by entry, at every position of the cycle: for half-step index `k` the
eight of `PHASE8` in the styles other than Microstep, for quadrant `q` the four of `QUAD4` in Microstep. -/
def Obligations.EnableSetsAreTheTables : Prop :=
  ∀ (c : Config) (off : Nat),
    (off < c.H → ∀ style : Style, style ≠ .microstep →
      (List.range 8).map (fun k => enables c style (k * c.H + off)) =
        [[.A], [.A, .B], [.B], [.B, .C], [.C], [.C, .D], [.D], [.D, .A]]) ∧
    (off < c.M →
      (List.range 4).map (fun q => enables c .microstep (q * c.M + off)) =
        [[.A, .B], [.B, .C], [.C, .D], [.D, .A]])

/-- Rules R130, R138: bit `k` of `ENBITS(p, S)` is 1 exactly when `COILMAP[p]` puts a member of `S` at `k`, and bit `k`
of `PMASK(p)` exactly when it puts one of the four lines there. -/
def Obligations.EnableBitsAreThoseOfTheSet : Prop :=
  ∀ (e : PortEntry) (S : List Coil) (k : Fin 8),
    ((e.enBits S).getLsbD k = true ↔
      (.A ∈ S ∧ e.bitA = k) ∨ (.B ∈ S ∧ e.bitB = k) ∨ (.C ∈ S ∧ e.bitC = k) ∨ (.D ∈ S ∧ e.bitD = k)) ∧
    (e.portMask.getLsbD k = true ↔ e.bitA = k ∨ e.bitB = k ∨ e.bitC = k ∨ e.bitD = k)

/-- Rule R131 (a), (b) with R130, R138: with a legal coil map the enable bits of a port lie in its mask, and outside
the mask of every other port. -/
def Obligations.EnableBitsStayInTheirPort : Prop :=
  ∀ (c : Config) (p p' : Code) (e e' : PortEntry) (S : List Coil), c.Legal →
    c.coilMap? p = some e → c.coilMap? p' = some e' →
    e.enBits S &&& ~~~e.portMask = 0#8 ∧ (p' ≠ p → e.enBits S &&& e'.portMask = 0#8)

/-- Rule R154 (e): on a legal curve a duty is 0 exactly where the other is 255, and only at the quadrant boundaries. -/
def Obligations.DutyIsExtremeOnlyAtQuadrantBoundaries : Prop :=
  ∀ (c : Config) (pos : Nat), c.Legal → pos < 4 * c.M →
    ((duty c pos).1 = 0#8 ↔ pos = c.M ∨ pos = 3 * c.M) ∧ ((duty c pos).2 = 255#8 ↔ pos = c.M ∨ pos = 3 * c.M) ∧
    ((duty c pos).1 = 255#8 ↔ pos = 0 ∨ pos = 2 * c.M) ∧ ((duty c pos).2 = 0#8 ↔ pos = 0 ∨ pos = 2 * c.M)

/-- Rules R149, R150: on a legal curve, DUTY at offset `off` of quadrant `q` is the pair of the curve's entries `M − off`
and `off`, in this order in the even quadrants and in the other order in the odd ones. -/
def Obligations.DutyReadsTheCurve : Prop :=
  ∀ (c : Config) (q off : Nat), c.Legal → q < 4 → off < c.M →
    ∃ lo hi : Byte, c.curve[off]? = some lo ∧ c.curve[c.M - off]? = some hi ∧
      duty c (q * c.M + off) = if q % 2 = 0 then (hi, lo) else (lo, hi)

/-- Rule R154 (c), (d): the duties of every position are a complementary pair `CURVE[j]`, `CURVE[M − j]`, and one
microstep on, across every quadrant boundary too, `j` is one more or one less. -/
def Obligations.DutyMovesToAdjacentEntries : Prop :=
  ∀ (c : Config) (pos : Nat), pos < 4 * c.M →
    ∃ j j' : Nat, j ≤ c.M ∧ j' ≤ c.M ∧ (j' = j + 1 ∨ j = j' + 1) ∧
      duty c pos = (c.curveAt j, c.curveAt (c.M - j)) ∧
      duty c ((pos + 1) % (4 * c.M)) = (c.curveAt j', c.curveAt (c.M - j'))

/-- Rules R150, R154 (a), (b): in quadrant 0 the duties are the curve read at `M − pos` and at `pos`; a quarter of the
cycle on, from any position, the two change places; half a cycle on, they are the same. -/
def Obligations.DutySwapsEveryQuarter : Prop :=
  ∀ (c : Config) (pos : Nat), pos < 4 * c.M →
    duty c ((pos + c.M) % (4 * c.M)) = ((duty c pos).2, (duty c pos).1) ∧
    duty c ((pos + 2 * c.M) % (4 * c.M)) = duty c pos ∧
    (pos < c.M → duty c pos = (c.curveAt (c.M - pos), c.curveAt pos))

/-- Rules R165, R166, R167: from any position of the cycle, one Single step ends on an even half-step index, one Double
step on an odd one, and one Interleave step on the neighbouring one. -/
def Obligations.StylesForceTheParityOfTheIndex : Prop :=
  ∀ (c : Config) (pos : Nat) (d : Direction), pos < 4 * c.M →
    let after := fun st => halfIndex c (newPos c pos d (delta c st pos))
    after .single % 2 = 0 ∧ after .double % 2 = 1 ∧
    after .interleave = (match d with
      | .forward => (halfIndex c pos + 1) % 8
      | .backward => (halfIndex c pos + 7) % 8)

/-- Rules R171 (c), R246: no Single, Double or Interleave step changes `POS mod H`. -/
def Obligations.MisalignmentPersists : Prop :=
  ∀ (c : Config) (pos : Nat) (d : Direction) (st : Style), st ≠ .microstep →
    newPos c pos d (delta c st pos) % c.H = pos % c.H

/-! ## Reset (spec/70_reset_and_hazards.md, rule R35) -/

/-- Rules R35, R235: the state after reset, with any parameters, at any time, and after the step in which an idle block
is reset; no event is emitted and the environment is not changed. -/
def Obligations.ResetGivesTheResetState : Prop :=
  (∀ c : Config, let r : State := State.resetWith c
    r.latch = 0x00#8 ∧ (∀ p, r.ctxOf p = ⟨false, 0#32, 0#32, 0#32, 0#11, 0#8, 0#8⟩) ∧
    r.pins = ⟨false, false, false⟩ ∧ r.out = [] ∧ r.busy = false) ∧
  (∀ s : State, let r : State := s.blockReset
    r.latch = 0x00#8 ∧ (∀ p, r.ctxOf p = ⟨false, 0#32, 0#32, 0#32, 0#11, 0#8, 0#8⟩) ∧
    r.pins = ⟨false, false, false⟩ ∧ r.out = [] ∧ r.busy = false ∧ r.env = s.env) ∧
  (∀ (s : State) (rest : List HostAction), s.busy = false → s.host = .reset :: rest →
    ∃ t : State, step s = .next t ∧
      t.latch = 0x00#8 ∧ (∀ p, t.ctxOf p = ⟨false, 0#32, 0#32, 0#32, 0#11, 0#8, 0#8⟩) ∧
      t.pins = ⟨false, false, false⟩ ∧ t.out = [] ∧ t.busy = false ∧ t.env = s.env ∧ t.cfg = s.cfg ∧ t.host = rest)

/-- Rules R235, R237: the step of an idle block whose host resets it is exactly the reset of the block; that no response
is presented then is the model's choice (log entry 6). -/
def Obligations.ResetActionResetsTheBlock : Prop :=
  ∀ (s : State) (rest : List HostAction), s.busy = false → s.host = .reset :: rest →
    step s = .next { s.blockReset with host := rest } ∧
    step s = .next { State.resetWith s.cfg with env := s.env, host := rest }

/-- Rules R236, R73: a reset that cuts a command after `k` events leaves the block at its reset values and the
environment as the first `k` events `es` of the uncut command (`u` is what that command leads to) make it, and presents
no response (the model's reading, log entry 8); where the first transmission was not finished (`k < 27`), the eight
enable lines are as they were, whatever the command. -/
def Obligations.ResetDuringACommandKeepsItsFirstEvents : Prop :=
  ∀ (s : State) (w : Command) (k : Nat) (rest : List HostAction), s.busy = false →
    s.host = .commandThenReset w k :: rest →
    ∃ (t u : State) (es : List Event), step s = .next t ∧
      step { s with host := .command w :: rest } = .next u ∧ u.out = s.out ++ es ∧
      t = { State.resetWith s.cfg with env := (s.emitAll (es.take k)).env, host := rest } ∧
      (k < 27 → t.env.q = s.env.q)

/-! ## Invariants of every step -/

/-- The registers' legal ranges hold at reset, and so do the two agreements with the environment. -/
def Obligations.ResetIsAGoodState : Prop :=
  State.reset.RegistersOk ∧
  ∀ c : Config, c.Legal →
    (State.resetWith c).RegistersOk ∧ (State.resetWith c).LinesOk ∧ (State.resetWith c).DutiesOk

/-- Rules R23, R24, R26, R27, R200, R217: every step keeps every register in its legal range: `POS` in the cycle, `REM`
at most 1000, `USPS` the quotient of some SETSPEED or 0, an unconstructed context at its reset values. -/
def Obligations.EveryStepKeepsTheRegistersLegal : Prop :=
  ∀ s t : State, s.RegistersOk → step s = .next t → t.RegistersOk

/-- Rules R22, R32, R62: in every state a step reaches, the latch word, the pins and the receiver agree: `LATCH` is the
last word transmitted and the word on the enable lines. -/
def Obligations.EveryStepKeepsTheLinesAtTheLatchWord : Prop :=
  ∀ s t : State, s.LinesOk → step s = .next t → t.LinesOk

/-- Rule R31: in every state a step reaches, `OCRA` and `OCRB` of every port are the duties last sent. -/
def Obligations.EveryStepKeepsTheDutyCopies : Prop :=
  ∀ s t : State, s.DutiesOk → step s = .next t → t.DutiesOk

/-! ## Whole-machine rules -/

/-- Rules R22 (a), R172 (b), R187 (c), R201 (f), R230: a command that names port `p` changes no latch bit outside
`PMASK(p)`, so no bit of another port of a legal map, no other context, no duty of another port, and programs none. -/
def Obligations.PortCommandsTouchOnlyTheirPort : Prop :=
  ∀ (s t : State) (i : Instr) (p : Code), portOf? i = some p → exec i s = .next t →
    (∀ e, s.cfg.coilMap? p = some e → t.latch &&& ~~~e.portMask = s.latch &&& ~~~e.portMask) ∧
    (s.cfg.coilMap? p = none → t.latch = s.latch) ∧
    (s.cfg.Legal → ∀ p' e', p' ≠ p → s.cfg.coilMap? p' = some e' →
      t.latch &&& e'.portMask = s.latch &&& e'.portMask) ∧
    (∀ p', p' ≠ p → t.ctxOf p' = s.ctxOf p' ∧ ∀ chan, t.env.duty p' chan = s.env.duty p' chan) ∧
    ∃ es, t.out = s.out ++ es ∧ ∀ p' chan v, .pwmSet p' chan v ∈ es → p' = p

/-- Rules R26, R27, R185: the pacing registers never reach the motor: from two states that differ only in `USPS`, `REM`
and the delay requests of `OUT`, every command leads to two states that differ only in these. -/
def Obligations.PacingNeverReachesTheMotor : Prop :=
  ∀ (s u s' u' : State) (i : Instr), s.SameButPacing u →
    exec i s = .next s' → exec i u = .next u' → s'.SameButPacing u'

/-- Rules R14, R20: `OUT` "is never read by any rule": a command appends the same events to any trace, and everything
else it does is the same. -/
def Obligations.TheTraceIsNeverRead : Prop :=
  ∀ (s : State) (i : Instr), ∃ (t : State) (es : List Event), ∀ o, exec i { s with out := o } = .next { t with out := o ++ es }

/-- Rule R72: the environment never returns a value: what a command does to the block, its response included, is the
same whatever the environment holds. -/
def Obligations.TheEnvironmentIsNeverRead : Prop :=
  ∀ (s : State) (i : Instr) (env : Env), ∃ (t : State) (env' : Env), exec i s = .next t ∧
    exec i { s with env := env } = .next { t with env := env' }
end

