-- ==== Sys2Proof/Laws/Decode.lean ====
section
/-! SUPPORT. The opcode map by fields: what each row's match and mask test (rule R89) says of the fields of rule R80,
and the fields of an assembled command word. -/

namespace Sys2Proof

/-- Two words are equal when all their bits are. -/
theorem eq_iff_bits {n : Nat} (x y : BitVec n) : x = y ↔ ∀ k < n, x.getLsbD k = y.getLsbD k :=
  ⟨fun h _ _ => h ▸ rfl, BitVec.eq_of_getLsbD_eq⟩

/-- The fields of an assembled word are the operands it was assembled from (rules R80, R87). -/
theorem fields_commandOf (op : BitVec 4) (port dir style : Code) (imm : Word) :
    opField (commandOf op port dir style imm) = op ∧ portField (commandOf op port dir style imm) = port ∧
      dirField (commandOf op port dir style imm) = dir ∧ styleField (commandOf op port dir style imm) = style ∧
      rsvField (commandOf op port dir style imm) = 0#3 ∧ immField (commandOf op port dir style imm) = imm := by
  refine ⟨?_, ?_, ?_, ?_, ?_, ?_⟩ <;>
    simp only [opField, portField, dirField, styleField, rsvField, immField, commandOf, eq_iff_bits,
      BitVec.getLsbD_extractLsb', BitVec.getLsbD_append] <;>
    intro k hk <;> interval_cases k <;> simp

/-- A word is assembled from its fields, where its reserved bits are zero. -/
theorem commandOf_fields (w : Command) (h : rsvField w = 0#3) :
    commandOf (opField w) (portField w) (dirField w) (styleField w) (immField w) = w := by
  have hr : ∀ k < 3, w.getLsbD (32 + k) = false := by
    intro k hk
    have := congrArg (fun x => x.getLsbD k) h
    simpa [rsvField, hk] using this
  have r0 := hr 0 (by decide)
  have r1 := hr 1 (by decide)
  have r2 := hr 2 (by decide)
  simp only [opField, portField, dirField, styleField, immField, commandOf, eq_iff_bits,
    BitVec.getLsbD_extractLsb', BitVec.getLsbD_append]
  intro k hk
  interval_cases k <;> simp_all

/-- The low half of the immediate is the two bytes of LATCHW, where its high half is zero (rules R81, R94). -/
theorem latchw_imm (w : Command) (h : (immField w).extractLsb' 16 16 = 0#16) :
    (0#16 ++ w.extractLsb' 8 8 ++ w.extractLsb' 0 8 : Word) = immField w := by
  have hz : ∀ k < 16, w.getLsbD (16 + k) = false := by
    intro k hk
    have := congrArg (fun x => x.getLsbD k) h
    have h32 : 16 + k < 32 := by omega
    simpa [immField, hk, h32] using this
  simp only [immField, eq_iff_bits, BitVec.getLsbD_extractLsb', BitVec.getLsbD_append]
  intro k hk
  by_cases hk16 : k < 16
  · interval_cases k <;> simp
  · have := hz (k - 16) (by omega)
    rw [show 16 + (k - 16) = k by omega] at this
    interval_cases k <;> simp_all

section
variable (w : Command)

/-- Row NEW by fields (rules R81, R87, R89). -/
theorem row_new : w &&& 0xF1FF00000000#48 = 0x100000000000#48 ↔
    opField w = 1#4 ∧ dirField w = 0#3 ∧ styleField w = 0#3 ∧ rsvField w = 0#3 := by
  simp only [dirField, opField, rsvField, styleField, eq_iff_bits, BitVec.getLsbD_and, BitVec.getLsbD_extractLsb']
  constructor
  · intro h
    refine ⟨?_, ?_, ?_, ?_⟩
    · intro k hk
      have := h (44 + k) (by omega)
      interval_cases k <;> simpa using this
    · intro k hk
      have := h (38 + k) (by omega)
      interval_cases k <;> simpa using this
    · intro k hk
      have := h (35 + k) (by omega)
      interval_cases k <;> simpa using this
    · intro k hk
      have := h (32 + k) (by omega)
      interval_cases k <;> simpa using this
  · intro ⟨h0, h1, h2, h3⟩ k hk
    by_cases ch0 : 44 ≤ k ∧ k < 48
    · have := h0 (k - 44) (by omega)
      obtain ⟨lo, hi⟩ := ch0
      interval_cases k <;> simpa using this
    by_cases ch1 : 38 ≤ k ∧ k < 41
    · have := h1 (k - 38) (by omega)
      obtain ⟨lo, hi⟩ := ch1
      interval_cases k <;> simpa using this
    by_cases ch2 : 35 ≤ k ∧ k < 38
    · have := h2 (k - 35) (by omega)
      obtain ⟨lo, hi⟩ := ch2
      interval_cases k <;> simpa using this
    by_cases ch3 : 32 ≤ k ∧ k < 35
    · have := h3 (k - 32) (by omega)
      obtain ⟨lo, hi⟩ := ch3
      interval_cases k <;> simpa using this
    interval_cases k <;> simp at ch0 ch1 ch2 ch3 ⊢

/-- Row SETSPEED by fields (rules R81, R87, R89). -/
theorem row_setspeed : w &&& 0xF1FF00000000#48 = 0x200000000000#48 ↔
    opField w = 2#4 ∧ dirField w = 0#3 ∧ styleField w = 0#3 ∧ rsvField w = 0#3 := by
  simp only [dirField, opField, rsvField, styleField, eq_iff_bits, BitVec.getLsbD_and, BitVec.getLsbD_extractLsb']
  constructor
  · intro h
    refine ⟨?_, ?_, ?_, ?_⟩
    · intro k hk
      have := h (44 + k) (by omega)
      interval_cases k <;> simpa using this
    · intro k hk
      have := h (38 + k) (by omega)
      interval_cases k <;> simpa using this
    · intro k hk
      have := h (35 + k) (by omega)
      interval_cases k <;> simpa using this
    · intro k hk
      have := h (32 + k) (by omega)
      interval_cases k <;> simpa using this
  · intro ⟨h0, h1, h2, h3⟩ k hk
    by_cases ch0 : 44 ≤ k ∧ k < 48
    · have := h0 (k - 44) (by omega)
      obtain ⟨lo, hi⟩ := ch0
      interval_cases k <;> simpa using this
    by_cases ch1 : 38 ≤ k ∧ k < 41
    · have := h1 (k - 38) (by omega)
      obtain ⟨lo, hi⟩ := ch1
      interval_cases k <;> simpa using this
    by_cases ch2 : 35 ≤ k ∧ k < 38
    · have := h2 (k - 35) (by omega)
      obtain ⟨lo, hi⟩ := ch2
      interval_cases k <;> simpa using this
    by_cases ch3 : 32 ≤ k ∧ k < 35
    · have := h3 (k - 32) (by omega)
      obtain ⟨lo, hi⟩ := ch3
      interval_cases k <;> simpa using this
    interval_cases k <;> simp at ch0 ch1 ch2 ch3 ⊢

/-- Row ONESTEP by fields (rules R81, R87, R89). -/
theorem row_onestep : w &&& 0xF007FFFFFFFF#48 = 0x300000000000#48 ↔
    opField w = 3#4 ∧ rsvField w = 0#3 ∧ immField w = 0#32 := by
  simp only [immField, opField, rsvField, eq_iff_bits, BitVec.getLsbD_and, BitVec.getLsbD_extractLsb']
  constructor
  · intro h
    refine ⟨?_, ?_, ?_⟩
    · intro k hk
      have := h (44 + k) (by omega)
      interval_cases k <;> simpa using this
    · intro k hk
      have := h (32 + k) (by omega)
      interval_cases k <;> simpa using this
    · intro k hk
      have := h (0 + k) (by omega)
      interval_cases k <;> simpa using this
  · intro ⟨h0, h1, h2⟩ k hk
    by_cases ch0 : 44 ≤ k ∧ k < 48
    · have := h0 (k - 44) (by omega)
      obtain ⟨lo, hi⟩ := ch0
      interval_cases k <;> simpa using this
    by_cases ch1 : 32 ≤ k ∧ k < 35
    · have := h1 (k - 32) (by omega)
      obtain ⟨lo, hi⟩ := ch1
      interval_cases k <;> simpa using this
    by_cases ch2 : 0 ≤ k ∧ k < 32
    · have := h2 (k - 0) (by omega)
      obtain ⟨lo, hi⟩ := ch2
      interval_cases k <;> simpa using this
    interval_cases k <;> simp at ch0 ch1 ch2 ⊢

/-- Row STEP by fields (rules R81, R87, R89). -/
theorem row_step : w &&& 0xF00700000000#48 = 0x400000000000#48 ↔
    opField w = 4#4 ∧ rsvField w = 0#3 := by
  simp only [opField, rsvField, eq_iff_bits, BitVec.getLsbD_and, BitVec.getLsbD_extractLsb']
  constructor
  · intro h
    refine ⟨?_, ?_⟩
    · intro k hk
      have := h (44 + k) (by omega)
      interval_cases k <;> simpa using this
    · intro k hk
      have := h (32 + k) (by omega)
      interval_cases k <;> simpa using this
  · intro ⟨h0, h1⟩ k hk
    by_cases ch0 : 44 ≤ k ∧ k < 48
    · have := h0 (k - 44) (by omega)
      obtain ⟨lo, hi⟩ := ch0
      interval_cases k <;> simpa using this
    by_cases ch1 : 32 ≤ k ∧ k < 35
    · have := h1 (k - 32) (by omega)
      obtain ⟨lo, hi⟩ := ch1
      interval_cases k <;> simpa using this
    interval_cases k <;> simp at ch0 ch1 ⊢

/-- Row RELEASE by fields (rules R81, R87, R89). -/
theorem row_release : w &&& 0xF1FFFFFFFFFF#48 = 0x500000000000#48 ↔
    opField w = 5#4 ∧ dirField w = 0#3 ∧ styleField w = 0#3 ∧ rsvField w = 0#3 ∧ immField w = 0#32 := by
  simp only [dirField, immField, opField, rsvField, styleField, eq_iff_bits, BitVec.getLsbD_and, BitVec.getLsbD_extractLsb']
  constructor
  · intro h
    refine ⟨?_, ?_, ?_, ?_, ?_⟩
    · intro k hk
      have := h (44 + k) (by omega)
      interval_cases k <;> simpa using this
    · intro k hk
      have := h (38 + k) (by omega)
      interval_cases k <;> simpa using this
    · intro k hk
      have := h (35 + k) (by omega)
      interval_cases k <;> simpa using this
    · intro k hk
      have := h (32 + k) (by omega)
      interval_cases k <;> simpa using this
    · intro k hk
      have := h (0 + k) (by omega)
      interval_cases k <;> simpa using this
  · intro ⟨h0, h1, h2, h3, h4⟩ k hk
    by_cases ch0 : 44 ≤ k ∧ k < 48
    · have := h0 (k - 44) (by omega)
      obtain ⟨lo, hi⟩ := ch0
      interval_cases k <;> simpa using this
    by_cases ch1 : 38 ≤ k ∧ k < 41
    · have := h1 (k - 38) (by omega)
      obtain ⟨lo, hi⟩ := ch1
      interval_cases k <;> simpa using this
    by_cases ch2 : 35 ≤ k ∧ k < 38
    · have := h2 (k - 35) (by omega)
      obtain ⟨lo, hi⟩ := ch2
      interval_cases k <;> simpa using this
    by_cases ch3 : 32 ≤ k ∧ k < 35
    · have := h3 (k - 32) (by omega)
      obtain ⟨lo, hi⟩ := ch3
      interval_cases k <;> simpa using this
    by_cases ch4 : 0 ≤ k ∧ k < 32
    · have := h4 (k - 0) (by omega)
      obtain ⟨lo, hi⟩ := ch4
      interval_cases k <;> simpa using this
    interval_cases k <;> simp at ch0 ch1 ch2 ch3 ch4 ⊢

/-- Row LATCHW by fields (rules R81, R87, R89). -/
theorem row_latchw : w &&& 0xFFFFFFFF0000#48 = 0x600000000000#48 ↔
    opField w = 6#4 ∧ portField w = 0#3 ∧ dirField w = 0#3 ∧ styleField w = 0#3 ∧ rsvField w = 0#3 ∧ (immField w).extractLsb' 16 16 = 0#16 := by
  simp only [dirField, immField, opField, portField, rsvField, styleField, eq_iff_bits, BitVec.getLsbD_and, BitVec.getLsbD_extractLsb']
  constructor
  · intro h
    refine ⟨?_, ?_, ?_, ?_, ?_, ?_⟩
    · intro k hk
      have := h (44 + k) (by omega)
      interval_cases k <;> simpa using this
    · intro k hk
      have := h (41 + k) (by omega)
      interval_cases k <;> simpa using this
    · intro k hk
      have := h (38 + k) (by omega)
      interval_cases k <;> simpa using this
    · intro k hk
      have := h (35 + k) (by omega)
      interval_cases k <;> simpa using this
    · intro k hk
      have := h (32 + k) (by omega)
      interval_cases k <;> simpa using this
    · intro k hk
      have := h (16 + k) (by omega)
      interval_cases k <;> simpa using this
  · intro ⟨h0, h1, h2, h3, h4, h5⟩ k hk
    by_cases ch0 : 44 ≤ k ∧ k < 48
    · have := h0 (k - 44) (by omega)
      obtain ⟨lo, hi⟩ := ch0
      interval_cases k <;> simpa using this
    by_cases ch1 : 41 ≤ k ∧ k < 44
    · have := h1 (k - 41) (by omega)
      obtain ⟨lo, hi⟩ := ch1
      interval_cases k <;> simpa using this
    by_cases ch2 : 38 ≤ k ∧ k < 41
    · have := h2 (k - 38) (by omega)
      obtain ⟨lo, hi⟩ := ch2
      interval_cases k <;> simpa using this
    by_cases ch3 : 35 ≤ k ∧ k < 38
    · have := h3 (k - 35) (by omega)
      obtain ⟨lo, hi⟩ := ch3
      interval_cases k <;> simpa using this
    by_cases ch4 : 32 ≤ k ∧ k < 35
    · have := h4 (k - 32) (by omega)
      obtain ⟨lo, hi⟩ := ch4
      interval_cases k <;> simpa using this
    by_cases ch5 : 16 ≤ k ∧ k < 32
    · have := h5 (k - 16) (by omega)
      obtain ⟨lo, hi⟩ := ch5
      interval_cases k <;> simpa using this
    interval_cases k <;> simp at ch0 ch1 ch2 ch3 ch4 ch5 ⊢

end

end Sys2Proof
end

