-- ==== Sys2Proof/Laws/Motion.lean ====
section
/-! SUPPORT. The arithmetic of positions: bounds of `M`, `H`, DELTA and NEWPOS (rules R8, R162, R164). -/

namespace Sys2Proof

/-- `M ∈ {8, 16}` (rule R8). -/
theorem Config.M_cases (c : Config) : c.M = 8 ∨ c.M = 16 := by
  unfold Config.M
  cases c.points <;> simp

/-- `M` and `H` together, as numbers (rule R8). -/
theorem Config.M_H_cases (c : Config) : (c.M = 8 ∧ c.H = 4) ∨ (c.M = 16 ∧ c.H = 8) := by
  rcases c.M_cases with h | h <;> simp [Config.H, h]

theorem Config.M_pos (c : Config) : 0 < c.M := by
  rcases c.M_cases with h | h <;> omega

theorem Config.H_pos (c : Config) : 0 < c.H := by
  rcases c.M_H_cases with h | h <;> omega

theorem Config.M_eq_two_H (c : Config) : c.M = 2 * c.H := by
  rcases c.M_H_cases with h | h <;> omega

theorem Config.cycle_eq (c : Config) : c.cycle = 4 * c.M := rfl

theorem Config.cycle_pos (c : Config) : 0 < c.cycle := by
  have := c.M_pos
  unfold Config.cycle
  omega

/-- Every position fits the 32-bit register (rule R10). -/
theorem Config.cycle_le (c : Config) : c.cycle ≤ 64 := by
  rcases c.M_cases with h | h <;> simp [Config.cycle, h]

namespace Machine

/-- `1 ≤ delta ≤ M` (rule R164). -/
theorem delta_bounds (c : Config) (style : Style) (pos : Nat) :
    1 ≤ delta c style pos ∧ delta c style pos ≤ c.M := by
  have hM := c.M_eq_two_H
  have hH := c.H_pos
  cases style <;> simp only [delta] <;> (try split) <;> omega

/-- The wrapped position is in the cycle, whatever it was before (rule R24). -/
theorem newPos_lt (c : Config) (pos : Nat) (dir : Direction) (d : Nat) : newPos c pos dir d < c.cycle := by
  cases dir <;> exact Nat.mod_lt _ c.cycle_pos

end Machine

end Sys2Proof
end

