-- ==== Sys2Proof/Laws/State.lean ====
section
/-! SUPPORT. One lemma per field per state update, each true by definition, so that no proof unfolds an update. -/

namespace Sys2Proof.Machine

variable (s : State)

/-! emit -/

@[simp] theorem State.emit_latch (e : Event) : (s.emit e).latch = s.latch := rfl
@[simp] theorem State.emit_ctx (e : Event) : (s.emit e).ctx = s.ctx := rfl
@[simp] theorem State.emit_pins (e : Event) : (s.emit e).pins = s.pins.receive e := rfl
@[simp] theorem State.emit_out (e : Event) : (s.emit e).out = s.out ++ [e] := rfl
@[simp] theorem State.emit_busy (e : Event) : (s.emit e).busy = s.busy := rfl
@[simp] theorem State.emit_rsp (e : Event) : (s.emit e).rsp = s.rsp := rfl
@[simp] theorem State.emit_cfg (e : Event) : (s.emit e).cfg = s.cfg := rfl
@[simp] theorem State.emit_env (e : Event) : (s.emit e).env = s.env.receive s.pins e := rfl
@[simp] theorem State.emit_host (e : Event) : (s.emit e).host = s.host := rfl

/-! setCtx -/

@[simp] theorem State.setCtx_latch (p : Code) (x : Ctx) : (s.setCtx p x).latch = s.latch := rfl
@[simp] theorem State.setCtx_ctx (p : Code) (x : Ctx) : (s.setCtx p x).ctx = s.ctx.set p.toNat x p.isLt := rfl
@[simp] theorem State.setCtx_pins (p : Code) (x : Ctx) : (s.setCtx p x).pins = s.pins := rfl
@[simp] theorem State.setCtx_out (p : Code) (x : Ctx) : (s.setCtx p x).out = s.out := rfl
@[simp] theorem State.setCtx_busy (p : Code) (x : Ctx) : (s.setCtx p x).busy = s.busy := rfl
@[simp] theorem State.setCtx_rsp (p : Code) (x : Ctx) : (s.setCtx p x).rsp = s.rsp := rfl
@[simp] theorem State.setCtx_cfg (p : Code) (x : Ctx) : (s.setCtx p x).cfg = s.cfg := rfl
@[simp] theorem State.setCtx_env (p : Code) (x : Ctx) : (s.setCtx p x).env = s.env := rfl
@[simp] theorem State.setCtx_host (p : Code) (x : Ctx) : (s.setCtx p x).host = s.host := rfl

/-! updateLatch -/

@[simp] theorem State.updateLatch_latch (mask value : Byte) : (s.updateLatch mask value).latch = (s.latch &&& ~~~mask) ||| (value &&& mask) := rfl
@[simp] theorem State.updateLatch_ctx (mask value : Byte) : (s.updateLatch mask value).ctx = s.ctx := rfl
@[simp] theorem State.updateLatch_pins (mask value : Byte) : (s.updateLatch mask value).pins = s.pins := rfl
@[simp] theorem State.updateLatch_out (mask value : Byte) : (s.updateLatch mask value).out = s.out := rfl
@[simp] theorem State.updateLatch_busy (mask value : Byte) : (s.updateLatch mask value).busy = s.busy := rfl
@[simp] theorem State.updateLatch_rsp (mask value : Byte) : (s.updateLatch mask value).rsp = s.rsp := rfl
@[simp] theorem State.updateLatch_cfg (mask value : Byte) : (s.updateLatch mask value).cfg = s.cfg := rfl
@[simp] theorem State.updateLatch_env (mask value : Byte) : (s.updateLatch mask value).env = s.env := rfl
@[simp] theorem State.updateLatch_host (mask value : Byte) : (s.updateLatch mask value).host = s.host := rfl

/-! enableCoils -/

@[simp] theorem State.enableCoils_latch (e : PortEntry) (coils : List Coil) : (s.enableCoils e coils).latch = (s.latch &&& ~~~e.portMask) ||| e.enBits coils := rfl
@[simp] theorem State.enableCoils_ctx (e : PortEntry) (coils : List Coil) : (s.enableCoils e coils).ctx = s.ctx := rfl
@[simp] theorem State.enableCoils_pins (e : PortEntry) (coils : List Coil) : (s.enableCoils e coils).pins = s.pins := rfl
@[simp] theorem State.enableCoils_out (e : PortEntry) (coils : List Coil) : (s.enableCoils e coils).out = s.out := rfl
@[simp] theorem State.enableCoils_busy (e : PortEntry) (coils : List Coil) : (s.enableCoils e coils).busy = s.busy := rfl
@[simp] theorem State.enableCoils_rsp (e : PortEntry) (coils : List Coil) : (s.enableCoils e coils).rsp = s.rsp := rfl
@[simp] theorem State.enableCoils_cfg (e : PortEntry) (coils : List Coil) : (s.enableCoils e coils).cfg = s.cfg := rfl
@[simp] theorem State.enableCoils_env (e : PortEntry) (coils : List Coil) : (s.enableCoils e coils).env = s.env := rfl
@[simp] theorem State.enableCoils_host (e : PortEntry) (coils : List Coil) : (s.enableCoils e coils).host = s.host := rfl

/-! disableCoils -/

@[simp] theorem State.disableCoils_latch (e : PortEntry) : (s.disableCoils e).latch = s.latch &&& ~~~e.portMask := rfl
@[simp] theorem State.disableCoils_ctx (e : PortEntry) : (s.disableCoils e).ctx = s.ctx := rfl
@[simp] theorem State.disableCoils_pins (e : PortEntry) : (s.disableCoils e).pins = s.pins := rfl
@[simp] theorem State.disableCoils_out (e : PortEntry) : (s.disableCoils e).out = s.out := rfl
@[simp] theorem State.disableCoils_busy (e : PortEntry) : (s.disableCoils e).busy = s.busy := rfl
@[simp] theorem State.disableCoils_rsp (e : PortEntry) : (s.disableCoils e).rsp = s.rsp := rfl
@[simp] theorem State.disableCoils_cfg (e : PortEntry) : (s.disableCoils e).cfg = s.cfg := rfl
@[simp] theorem State.disableCoils_env (e : PortEntry) : (s.disableCoils e).env = s.env := rfl
@[simp] theorem State.disableCoils_host (e : PortEntry) : (s.disableCoils e).host = s.host := rfl

/-! respond -/

@[simp] theorem State.respond_latch (v : Word) : (s.respond v).latch = s.latch := rfl
@[simp] theorem State.respond_ctx (v : Word) : (s.respond v).ctx = s.ctx := rfl
@[simp] theorem State.respond_pins (v : Word) : (s.respond v).pins = s.pins := rfl
@[simp] theorem State.respond_out (v : Word) : (s.respond v).out = s.out := rfl
@[simp] theorem State.respond_busy (v : Word) : (s.respond v).busy = false := rfl
@[simp] theorem State.respond_rsp (v : Word) : (s.respond v).rsp = some (okResponse v) := rfl
@[simp] theorem State.respond_cfg (v : Word) : (s.respond v).cfg = s.cfg := rfl
@[simp] theorem State.respond_env (v : Word) : (s.respond v).env = s.env := rfl
@[simp] theorem State.respond_host (v : Word) : (s.respond v).host = s.host := rfl

/-! raise -/

@[simp] theorem State.raise_latch (err : CmdError) : (s.raise err).latch = s.latch := rfl
@[simp] theorem State.raise_ctx (err : CmdError) : (s.raise err).ctx = s.ctx := rfl
@[simp] theorem State.raise_pins (err : CmdError) : (s.raise err).pins = s.pins := rfl
@[simp] theorem State.raise_out (err : CmdError) : (s.raise err).out = s.out := rfl
@[simp] theorem State.raise_busy (err : CmdError) : (s.raise err).busy = false := rfl
@[simp] theorem State.raise_rsp (err : CmdError) : (s.raise err).rsp = some (errorResponse err) := rfl
@[simp] theorem State.raise_cfg (err : CmdError) : (s.raise err).cfg = s.cfg := rfl
@[simp] theorem State.raise_env (err : CmdError) : (s.raise err).env = s.env := rfl
@[simp] theorem State.raise_host (err : CmdError) : (s.raise err).host = s.host := rfl

/-! accept -/

@[simp] theorem State.accept_latch (rest : List HostAction) : (s.accept rest).latch = s.latch := rfl
@[simp] theorem State.accept_ctx (rest : List HostAction) : (s.accept rest).ctx = s.ctx := rfl
@[simp] theorem State.accept_pins (rest : List HostAction) : (s.accept rest).pins = s.pins := rfl
@[simp] theorem State.accept_out (rest : List HostAction) : (s.accept rest).out = s.out := rfl
@[simp] theorem State.accept_busy (rest : List HostAction) : (s.accept rest).busy = true := rfl
@[simp] theorem State.accept_rsp (rest : List HostAction) : (s.accept rest).rsp = none := rfl
@[simp] theorem State.accept_cfg (rest : List HostAction) : (s.accept rest).cfg = s.cfg := rfl
@[simp] theorem State.accept_env (rest : List HostAction) : (s.accept rest).env = s.env := rfl
@[simp] theorem State.accept_host (rest : List HostAction) : (s.accept rest).host = rest := rfl

/-! present -/

@[simp] theorem State.present_latch (w : Command) : (s.present w).latch = s.latch := rfl
@[simp] theorem State.present_ctx (w : Command) : (s.present w).ctx = s.ctx := rfl
@[simp] theorem State.present_pins (w : Command) : (s.present w).pins = s.pins := rfl
@[simp] theorem State.present_out (w : Command) : (s.present w).out = s.out := rfl
@[simp] theorem State.present_busy (w : Command) : (s.present w).busy = false := rfl
@[simp] theorem State.present_rsp (w : Command) : (s.present w).rsp = s.rsp := rfl
@[simp] theorem State.present_cfg (w : Command) : (s.present w).cfg = s.cfg := rfl
@[simp] theorem State.present_env (w : Command) : (s.present w).env = s.env := rfl
@[simp] theorem State.present_host (w : Command) : (s.present w).host = .command w :: s.host := rfl

/-! blockReset -/

@[simp] theorem State.blockReset_latch : (s.blockReset).latch = 0x00#8 := rfl
@[simp] theorem State.blockReset_ctx : (s.blockReset).ctx = Vector.replicate 8 Ctx.reset := rfl
@[simp] theorem State.blockReset_pins : (s.blockReset).pins = Pins.low := rfl
@[simp] theorem State.blockReset_out : (s.blockReset).out = [] := rfl
@[simp] theorem State.blockReset_busy : (s.blockReset).busy = false := rfl
@[simp] theorem State.blockReset_rsp : (s.blockReset).rsp = none := rfl
@[simp] theorem State.blockReset_cfg : (s.blockReset).cfg = s.cfg := rfl
@[simp] theorem State.blockReset_env : (s.blockReset).env = s.env := rfl
@[simp] theorem State.blockReset_host : (s.blockReset).host = s.host := rfl

/-! programDuty -/

@[simp] theorem State.programDuty_latch (p : Code) (chan : Channel) (v : Byte) : (s.programDuty p chan v).latch = s.latch := rfl
@[simp] theorem State.programDuty_ctx (p : Code) (chan : Channel) (v : Byte) : (s.programDuty p chan v).ctx = (s.setCtx p ((s.ctxOf p).setOcr chan v)).ctx := rfl
@[simp] theorem State.programDuty_pins (p : Code) (chan : Channel) (v : Byte) : (s.programDuty p chan v).pins = s.pins := rfl
@[simp] theorem State.programDuty_out (p : Code) (chan : Channel) (v : Byte) : (s.programDuty p chan v).out = s.out ++ [.pwmSet p chan v] := rfl
@[simp] theorem State.programDuty_busy (p : Code) (chan : Channel) (v : Byte) : (s.programDuty p chan v).busy = s.busy := rfl
@[simp] theorem State.programDuty_rsp (p : Code) (chan : Channel) (v : Byte) : (s.programDuty p chan v).rsp = s.rsp := rfl
@[simp] theorem State.programDuty_cfg (p : Code) (chan : Channel) (v : Byte) : (s.programDuty p chan v).cfg = s.cfg := rfl
@[simp] theorem State.programDuty_env (p : Code) (chan : Channel) (v : Byte) : (s.programDuty p chan v).env = s.env.setDuty p chan v := rfl
@[simp] theorem State.programDuty_host (p : Code) (chan : Channel) (v : Byte) : (s.programDuty p chan v).host = s.host := rfl

/-! delay -/

@[simp] theorem State.delay_latch (ms : Nat) : (s.delay ms).latch = s.latch := rfl
@[simp] theorem State.delay_ctx (ms : Nat) : (s.delay ms).ctx = s.ctx := rfl
@[simp] theorem State.delay_pins (ms : Nat) : (s.delay ms).pins = s.pins := rfl
@[simp] theorem State.delay_out (ms : Nat) : (s.delay ms).out = s.out ++ [.delay (BitVec.ofNat 32 ms)] := rfl
@[simp] theorem State.delay_busy (ms : Nat) : (s.delay ms).busy = s.busy := rfl
@[simp] theorem State.delay_rsp (ms : Nat) : (s.delay ms).rsp = s.rsp := rfl
@[simp] theorem State.delay_cfg (ms : Nat) : (s.delay ms).cfg = s.cfg := rfl
@[simp] theorem State.delay_env (ms : Nat) : (s.delay ms).env = s.env := rfl
@[simp] theorem State.delay_host (ms : Nat) : (s.delay ms).host = s.host := rfl

/-! setPos -/

@[simp] theorem State.setPos_latch (p : Code) (pos : Nat) : (s.setPos p pos).latch = s.latch := rfl
@[simp] theorem State.setPos_ctx (p : Code) (pos : Nat) : (s.setPos p pos).ctx = (s.setCtx p { s.ctxOf p with pos := BitVec.ofNat 32 pos }).ctx := rfl
@[simp] theorem State.setPos_pins (p : Code) (pos : Nat) : (s.setPos p pos).pins = s.pins := rfl
@[simp] theorem State.setPos_out (p : Code) (pos : Nat) : (s.setPos p pos).out = s.out := rfl
@[simp] theorem State.setPos_busy (p : Code) (pos : Nat) : (s.setPos p pos).busy = s.busy := rfl
@[simp] theorem State.setPos_rsp (p : Code) (pos : Nat) : (s.setPos p pos).rsp = s.rsp := rfl
@[simp] theorem State.setPos_cfg (p : Code) (pos : Nat) : (s.setPos p pos).cfg = s.cfg := rfl
@[simp] theorem State.setPos_env (p : Code) (pos : Nat) : (s.setPos p pos).env = s.env := rfl
@[simp] theorem State.setPos_host (p : Code) (pos : Nat) : (s.setPos p pos).host = s.host := rfl

/-! setRem -/

@[simp] theorem State.setRem_latch (p : Code) (r : Nat) : (s.setRem p r).latch = s.latch := rfl
@[simp] theorem State.setRem_ctx (p : Code) (r : Nat) : (s.setRem p r).ctx = (s.setCtx p { s.ctxOf p with rem := BitVec.ofNat 11 r }).ctx := rfl
@[simp] theorem State.setRem_pins (p : Code) (r : Nat) : (s.setRem p r).pins = s.pins := rfl
@[simp] theorem State.setRem_out (p : Code) (r : Nat) : (s.setRem p r).out = s.out := rfl
@[simp] theorem State.setRem_busy (p : Code) (r : Nat) : (s.setRem p r).busy = s.busy := rfl
@[simp] theorem State.setRem_rsp (p : Code) (r : Nat) : (s.setRem p r).rsp = s.rsp := rfl
@[simp] theorem State.setRem_cfg (p : Code) (r : Nat) : (s.setRem p r).cfg = s.cfg := rfl
@[simp] theorem State.setRem_env (p : Code) (r : Nat) : (s.setRem p r).env = s.env := rfl
@[simp] theorem State.setRem_host (p : Code) (r : Nat) : (s.setRem p r).host = s.host := rfl

/-! The contexts and positions that the updates read and leave. -/

/-- The context written is the context read. -/
@[simp] theorem State.ctxOf_setCtx_same (p : Code) (x : Ctx) : (s.setCtx p x).ctxOf p = x := by
  simp [State.ctxOf, State.setCtx, Vector.get_eq_getElem]

/-- The contexts of the other ports stay. -/
theorem State.ctxOf_setCtx_other {p p' : Code} (h : p' ≠ p) (x : Ctx) :
    (s.setCtx p x).ctxOf p' = s.ctxOf p' := by
  have hne : p.toNat ≠ p'.toNat := fun e => h (BitVec.eq_of_toNat_eq e.symm)
  simp [State.ctxOf, State.setCtx, Vector.get_eq_getElem, hne]

/-- `ctxOf` after a write, by cases on the port. -/
theorem State.ctxOf_setCtx (p p' : Code) (x : Ctx) :
    (s.setCtx p x).ctxOf p' = if p' = p then x else s.ctxOf p' := by
  split
  · next h => subst h; exact s.ctxOf_setCtx_same p' x
  · next h => exact s.ctxOf_setCtx_other h x

/-- States with the same contexts read alike. -/
theorem State.ctxOf_congr {s u : State} (h : s.ctx = u.ctx) (p : Code) : s.ctxOf p = u.ctxOf p := by
  simp [State.ctxOf, h]

@[simp] theorem State.emit_ctxOf (e : Event) (p' : Code) : (s.emit e).ctxOf p' = s.ctxOf p' := rfl
@[simp] theorem State.emit_posOf (e : Event) (p' : Code) : (s.emit e).posOf p' = s.posOf p' := rfl
@[simp] theorem State.updateLatch_ctxOf (mask value : Byte) (p' : Code) : (s.updateLatch mask value).ctxOf p' = s.ctxOf p' := rfl
@[simp] theorem State.updateLatch_posOf (mask value : Byte) (p' : Code) : (s.updateLatch mask value).posOf p' = s.posOf p' := rfl
@[simp] theorem State.enableCoils_ctxOf (e : PortEntry) (coils : List Coil) (p' : Code) : (s.enableCoils e coils).ctxOf p' = s.ctxOf p' := rfl
@[simp] theorem State.enableCoils_posOf (e : PortEntry) (coils : List Coil) (p' : Code) : (s.enableCoils e coils).posOf p' = s.posOf p' := rfl
@[simp] theorem State.disableCoils_ctxOf (e : PortEntry) (p' : Code) : (s.disableCoils e).ctxOf p' = s.ctxOf p' := rfl
@[simp] theorem State.disableCoils_posOf (e : PortEntry) (p' : Code) : (s.disableCoils e).posOf p' = s.posOf p' := rfl
@[simp] theorem State.respond_ctxOf (v : Word) (p' : Code) : (s.respond v).ctxOf p' = s.ctxOf p' := rfl
@[simp] theorem State.respond_posOf (v : Word) (p' : Code) : (s.respond v).posOf p' = s.posOf p' := rfl
@[simp] theorem State.raise_ctxOf (err : CmdError) (p' : Code) : (s.raise err).ctxOf p' = s.ctxOf p' := rfl
@[simp] theorem State.raise_posOf (err : CmdError) (p' : Code) : (s.raise err).posOf p' = s.posOf p' := rfl
@[simp] theorem State.accept_ctxOf (rest : List HostAction) (p' : Code) : (s.accept rest).ctxOf p' = s.ctxOf p' := rfl
@[simp] theorem State.accept_posOf (rest : List HostAction) (p' : Code) : (s.accept rest).posOf p' = s.posOf p' := rfl
@[simp] theorem State.present_ctxOf (w : Command) (p' : Code) : (s.present w).ctxOf p' = s.ctxOf p' := rfl
@[simp] theorem State.present_posOf (w : Command) (p' : Code) : (s.present w).posOf p' = s.posOf p' := rfl
@[simp] theorem State.delay_ctxOf (ms : Nat) (p' : Code) : (s.delay ms).ctxOf p' = s.ctxOf p' := rfl
@[simp] theorem State.delay_posOf (ms : Nat) (p' : Code) : (s.delay ms).posOf p' = s.posOf p' := rfl

/-- Every context at reset. -/
@[simp] theorem State.blockReset_ctxOf (p : Code) : s.blockReset.ctxOf p = Ctx.reset := by
  simp [State.ctxOf, Vector.get_eq_getElem]

@[simp] theorem State.resetWith_ctxOf (c : Config) (p : Code) : (State.resetWith c).ctxOf p = Ctx.reset := by
  simp [State.ctxOf, State.resetWith, Vector.get_eq_getElem]

theorem State.programDuty_ctxOf (p p' : Code) (chan : Channel) (v : Byte) :
    (s.programDuty p chan v).ctxOf p' =
      if p' = p then (s.ctxOf p).setOcr chan v else s.ctxOf p' :=
  s.ctxOf_setCtx p p' _

theorem State.setPos_ctxOf (p p' : Code) (pos : Nat) :
    (s.setPos p pos).ctxOf p' =
      if p' = p then { s.ctxOf p with pos := BitVec.ofNat 32 pos } else s.ctxOf p' :=
  s.ctxOf_setCtx p p' _

theorem State.setRem_ctxOf (p p' : Code) (r : Nat) :
    (s.setRem p r).ctxOf p' =
      if p' = p then { s.ctxOf p with rem := BitVec.ofNat 11 r } else s.ctxOf p' :=
  s.ctxOf_setCtx p p' _

@[simp] theorem Ctx.setOcr_A_valid (x : Ctx) (v : Byte) : (x.setOcr .A v).valid = x.valid := rfl
@[simp] theorem Ctx.setOcr_A_spr (x : Ctx) (v : Byte) : (x.setOcr .A v).spr = x.spr := rfl
@[simp] theorem Ctx.setOcr_A_pos (x : Ctx) (v : Byte) : (x.setOcr .A v).pos = x.pos := rfl
@[simp] theorem Ctx.setOcr_A_usps (x : Ctx) (v : Byte) : (x.setOcr .A v).usps = x.usps := rfl
@[simp] theorem Ctx.setOcr_A_rem (x : Ctx) (v : Byte) : (x.setOcr .A v).rem = x.rem := rfl
@[simp] theorem Ctx.setOcr_A_ocrA (x : Ctx) (v : Byte) : (x.setOcr .A v).ocrA = v := rfl
@[simp] theorem Ctx.setOcr_A_ocrB (x : Ctx) (v : Byte) : (x.setOcr .A v).ocrB = x.ocrB := rfl
@[simp] theorem Ctx.setOcr_B_valid (x : Ctx) (v : Byte) : (x.setOcr .B v).valid = x.valid := rfl
@[simp] theorem Ctx.setOcr_B_spr (x : Ctx) (v : Byte) : (x.setOcr .B v).spr = x.spr := rfl
@[simp] theorem Ctx.setOcr_B_pos (x : Ctx) (v : Byte) : (x.setOcr .B v).pos = x.pos := rfl
@[simp] theorem Ctx.setOcr_B_usps (x : Ctx) (v : Byte) : (x.setOcr .B v).usps = x.usps := rfl
@[simp] theorem Ctx.setOcr_B_rem (x : Ctx) (v : Byte) : (x.setOcr .B v).rem = x.rem := rfl
@[simp] theorem Ctx.setOcr_B_ocrB (x : Ctx) (v : Byte) : (x.setOcr .B v).ocrB = v := rfl
@[simp] theorem Ctx.setOcr_B_ocrA (x : Ctx) (v : Byte) : (x.setOcr .B v).ocrA = x.ocrA := rfl

/-! The environment's duties. -/

@[simp] theorem Env.setDuty_sr (env : Env) (p : Code) (chan : Channel) (v : Byte) :
    (env.setDuty p chan v).sr = env.sr := rfl
@[simp] theorem Env.setDuty_q (env : Env) (p : Code) (chan : Channel) (v : Byte) :
    (env.setDuty p chan v).q = env.q := rfl

/-- A duty write reaches the channel it names and no other. -/
theorem Env.duty_setDuty (env : Env) (p p' : Code) (chan chan' : Channel) (v : Byte) :
    (env.setDuty p chan v).duty p' chan' = if p' = p ∧ chan' = chan then v else env.duty p' chan' := by
  by_cases hp : p' = p
  · subst hp
    cases chan <;> cases chan' <;>
      simp [Env.duty, Env.setDuty, DutyPair.set, Vector.get_eq_getElem]
  · have hne : p.toNat ≠ p'.toNat := fun e => hp (BitVec.eq_of_toNat_eq e.symm)
    cases chan' <;>
      simp [Env.duty, Env.setDuty, Vector.get_eq_getElem, hne, hp]

@[simp] theorem Env.shiftIn_q (env : Env) (bit : Bool) : (env.shiftIn bit).q = env.q := rfl
@[simp] theorem Env.shiftIn_duty (env : Env) (bit : Bool) (p : Code) (chan : Channel) :
    (env.shiftIn bit).duty p chan = env.duty p chan := by cases chan <;> rfl
/-- One shift: the new bit enters at bit 0 and older bits move up (rule R61). -/
theorem Env.shiftIn_bit (env : Env) (bit : Bool) (k : Nat) :
    (env.shiftIn bit).sr.getLsbD k = if k = 0 then bit else decide (k < 8) && env.sr.getLsbD (k - 1) := by
  simp only [Env.shiftIn]
  rw [BitVec.getLsbD_append]
  rcases k with _ | k
  · simp
  · by_cases hk : k < 7 <;> simp [BitVec.getLsbD_extractLsb', hk] <;> omega

@[simp] theorem Env.commit_sr (env : Env) : env.commit.sr = env.sr := rfl
@[simp] theorem Env.commit_duty (env : Env) (p : Code) (chan : Channel) :
    env.commit.duty p chan = env.duty p chan := by cases chan <;> rfl

end Sys2Proof.Machine
end

