-- ==== Sys2Proof/Laws/Ops.lean ====
section
/-! SUPPORT. What each shared operation does, said once: emitting, TRANSMIT, programming duties, one step of the state
machine, PACE, STEP's loops, and the checks. -/

namespace Sys2Proof.Machine

variable (s : State)

/-! Emitting a list of events. -/

@[simp] theorem State.emitAll_nil : s.emitAll [] = s := rfl

@[simp] theorem State.emitAll_cons (e : Event) (es : List Event) :
    s.emitAll (e :: es) = (s.emit e).emitAll es := rfl

theorem State.emitAll_append (es fs : List Event) : s.emitAll (es ++ fs) = (s.emitAll es).emitAll fs :=
  List.foldl_append

/-- Events change `OUT`, the pins and the environment, and nothing else. -/
theorem State.emitAll_frame (es : List Event) :
    (s.emitAll es).latch = s.latch ∧ (s.emitAll es).ctx = s.ctx ∧ (s.emitAll es).busy = s.busy ∧
      (s.emitAll es).rsp = s.rsp ∧ (s.emitAll es).cfg = s.cfg ∧ (s.emitAll es).host = s.host ∧
      (s.emitAll es).out = s.out ++ es := by
  induction es generalizing s with
  | nil => simp
  | cons e es ih =>
    obtain ⟨h1, h2, h3, h4, h5, h6, h7⟩ := ih (s.emit e)
    exact ⟨h1, h2, h3, h4, h5, h6, by simp [h7]⟩

@[simp] theorem State.emitAll_latch (es : List Event) : (s.emitAll es).latch = s.latch := (s.emitAll_frame es).1
@[simp] theorem State.emitAll_ctx (es : List Event) : (s.emitAll es).ctx = s.ctx := (s.emitAll_frame es).2.1
@[simp] theorem State.emitAll_busy (es : List Event) : (s.emitAll es).busy = s.busy := (s.emitAll_frame es).2.2.1
@[simp] theorem State.emitAll_rsp (es : List Event) : (s.emitAll es).rsp = s.rsp := (s.emitAll_frame es).2.2.2.1
@[simp] theorem State.emitAll_cfg (es : List Event) : (s.emitAll es).cfg = s.cfg := (s.emitAll_frame es).2.2.2.2.1
@[simp] theorem State.emitAll_host (es : List Event) : (s.emitAll es).host = s.host :=
  (s.emitAll_frame es).2.2.2.2.2.1
@[simp] theorem State.emitAll_out (es : List Event) : (s.emitAll es).out = s.out ++ es :=
  (s.emitAll_frame es).2.2.2.2.2.2
@[simp] theorem State.emitAll_ctxOf (es : List Event) (p : Code) : (s.emitAll es).ctxOf p = s.ctxOf p :=
  State.ctxOf_congr (s.emitAll_ctx es) p

/-- The pins after events are a function of the pins before and the events. -/
theorem State.emitAll_pins (es : List Event) : (s.emitAll es).pins = es.foldl Pins.receive s.pins := by
  induction es generalizing s with
  | nil => rfl
  | cons e es ih => simpa using ih (s.emit e)

/-- What events do to the environment depends on the pins and the environment before them, on nothing else. -/
theorem State.emitAll_env_congr (es : List Event) {s u : State} (hp : s.pins = u.pins) (he : s.env = u.env) :
    (s.emitAll es).env = (u.emitAll es).env := by
  induction es generalizing s u with
  | nil => exact he
  | cons e es ih => exact ih (by simp [hp]) (by simp [hp, he])

/-- A pin write leaves the PWM peripheral alone. -/
theorem Env.receive_w_duty (env : Env) (pins : Pins) (pin : Pin) (level : Bool) (p : Code) (chan : Channel) :
    (env.receive pins (.w pin level)).duty p chan = env.duty p chan := by
  cases pin <;> simp only [Env.receive]
  · split <;> simp
  · split <;> simp

/-- Pin writes leave the PWM peripheral alone. -/
theorem State.emitAll_w_duty (es : List Event) (h : ∀ e ∈ es, ∃ pin level, e = .w pin level)
    (p : Code) (chan : Channel) : (s.emitAll es).env.duty p chan = s.env.duty p chan := by
  induction es generalizing s with
  | nil => rfl
  | cons e es ih =>
    obtain ⟨pin, level, rfl⟩ := h e (by simp)
    rw [State.emitAll_cons, ih _ (fun x hx => h x (by simp [hx]))]
    exact Env.receive_w_duty _ _ _ _ _ _

/-! TRANSMIT. -/

/-- The 27 events written out (rule R111). -/
theorem transmitEvents_eq (w : Byte) : transmitEvents w =
    [.w .serLatch false, .w .serData false,
     .w .serClk false, .w .serData (w.getLsbD 7), .w .serClk true,
     .w .serClk false, .w .serData (w.getLsbD 6), .w .serClk true,
     .w .serClk false, .w .serData (w.getLsbD 5), .w .serClk true,
     .w .serClk false, .w .serData (w.getLsbD 4), .w .serClk true,
     .w .serClk false, .w .serData (w.getLsbD 3), .w .serClk true,
     .w .serClk false, .w .serData (w.getLsbD 2), .w .serClk true,
     .w .serClk false, .w .serData (w.getLsbD 1), .w .serClk true,
     .w .serClk false, .w .serData (w.getLsbD 0), .w .serClk true,
     .w .serLatch true] := rfl

/-- Every event of a TRANSMIT is a pin write. -/
theorem transmitEvents_w (w : Byte) : ∀ e ∈ transmitEvents w, ∃ pin level, e = .w pin level := by
  intro e he
  rw [transmitEvents_eq] at he
  simp only [List.mem_cons, List.not_mem_nil, or_false] at he
  rcases he with h | h | h | h | h | h | h | h | h | h | h | h | h | h | h | h | h | h | h | h | h | h | h | h | h | h | h <;>
    exact ⟨_, _, h⟩

@[simp] theorem State.transmit_latch : s.transmit.latch = s.latch := s.emitAll_latch _
@[simp] theorem State.transmit_ctx : s.transmit.ctx = s.ctx := s.emitAll_ctx _
@[simp] theorem State.transmit_ctxOf (p : Code) : s.transmit.ctxOf p = s.ctxOf p := s.emitAll_ctxOf _ p
@[simp] theorem State.transmit_busy : s.transmit.busy = s.busy := s.emitAll_busy _
@[simp] theorem State.transmit_rsp : s.transmit.rsp = s.rsp := s.emitAll_rsp _
@[simp] theorem State.transmit_cfg : s.transmit.cfg = s.cfg := s.emitAll_cfg _
@[simp] theorem State.transmit_host : s.transmit.host = s.host := s.emitAll_host _
@[simp] theorem State.transmit_out : s.transmit.out = s.out ++ transmitEvents s.latch := s.emitAll_out _

/-- The pins after a TRANSMIT, whatever they were before (rule R32). -/
@[simp] theorem State.transmit_pins :
    s.transmit.pins = { serLatch := true, serData := s.latch.getLsbD 0, serClk := true } := by
  rw [State.transmit, State.emitAll_pins, transmitEvents_eq]
  rfl

@[simp] theorem State.transmit_duty (p : Code) (chan : Channel) :
    s.transmit.env.duty p chan = s.env.duty p chan :=
  s.emitAll_w_duty _ (transmitEvents_w s.latch) p chan

/-! Programming a duty, requesting a delay. -/

@[simp] theorem State.programDuty_duty (p p' : Code) (chan chan' : Channel) (v : Byte) :
    (s.programDuty p chan v).env.duty p' chan' =
      if p' = p ∧ chan' = chan then v else s.env.duty p' chan' := by
  simp [Env.duty_setDuty]

@[simp] theorem State.delay_env_eq (ms : Nat) : (s.delay ms).env = s.env := rfl

/-! One step of the state machine (rule R170). -/

section
variable (p : Code) (e : PortEntry) (dir : Direction) (style : Style)

/-- The position after a step is in the cycle, whatever it was before (rule R172 (a)). -/
theorem State.nextPos_lt : s.nextPos p dir style < s.cfg.cycle := newPos_lt _ _ _ _

/-- The latch word of a step (rule R168). -/
theorem State.oneStepCore_latch : (s.oneStepCore p e dir style).latch =
    (s.latch &&& ~~~e.portMask) ||| e.enBits (enables s.cfg style (s.nextPos p dir style)) := by
  simp [State.oneStepCore]

/-- The contexts after a step: the stepping port's position and duties, nothing else. -/
theorem State.oneStepCore_ctxOf (p' : Code) : (s.oneStepCore p e dir style).ctxOf p' =
    if p' = p then
      { s.ctxOf p with
        pos := BitVec.ofNat 32 (s.nextPos p dir style)
        ocrA := (duty s.cfg (s.nextPos p dir style)).1
        ocrB := (duty s.cfg (s.nextPos p dir style)).2 }
    else s.ctxOf p' := by
  by_cases h : p' = p
  · subst h
    simp [State.oneStepCore, State.programDuty_ctxOf, State.setPos_ctxOf, Ctx.setOcr]
  · simp [State.oneStepCore, State.programDuty_ctxOf, State.setPos_ctxOf, h]

theorem State.oneStepCore_posOf : (s.oneStepCore p e dir style).posOf p = s.nextPos p dir style := by
  have h := s.nextPos_lt p dir style
  have hc := s.cfg.cycle_le
  simp [State.posOf, State.oneStepCore_ctxOf]
  omega

/-- The events of a step: TRANSMIT of the new word, then the two duties (rule R169). -/
theorem State.oneStepCore_out : (s.oneStepCore p e dir style).out =
    s.out ++ transmitEvents (s.oneStepCore p e dir style).latch ++
      [.pwmSet p .A (duty s.cfg (s.nextPos p dir style)).1,
       .pwmSet p .B (duty s.cfg (s.nextPos p dir style)).2] := by
  simp [State.oneStepCore]

theorem State.oneStepCore_pins : (s.oneStepCore p e dir style).pins =
    { serLatch := true, serData := (s.oneStepCore p e dir style).latch.getLsbD 0, serClk := true } := by
  simp [State.oneStepCore]

theorem State.oneStepCore_duty (p' : Code) (chan : Channel) :
    (s.oneStepCore p e dir style).env.duty p' chan =
      if p' = p then ((s.oneStepCore p e dir style).ctxOf p).ocr chan else s.env.duty p' chan := by
  by_cases h : p' = p
  · subst h
    cases chan <;> simp [State.oneStepCore, Env.duty_setDuty, State.programDuty_ctxOf, Ctx.ocr]
  · simp [State.oneStepCore, Env.duty_setDuty, h]

@[simp] theorem State.oneStepCore_busy : (s.oneStepCore p e dir style).busy = s.busy := by simp [State.oneStepCore]
@[simp] theorem State.oneStepCore_rsp : (s.oneStepCore p e dir style).rsp = s.rsp := by simp [State.oneStepCore]
@[simp] theorem State.oneStepCore_cfg : (s.oneStepCore p e dir style).cfg = s.cfg := by simp [State.oneStepCore]
@[simp] theorem State.oneStepCore_host : (s.oneStepCore p e dir style).host = s.host := by simp [State.oneStepCore]

end

/-! PACE (rule R199). -/

section
variable (p : Code) (us : Nat)

/-- The remainder PACE leaves: the sum, less 1000 where it exceeds 1000 (rule R199). -/
def paceRem (r us : Nat) : Nat :=
  if r + us % 1000 > 1000 then r + us % 1000 - 1000 else r + us % 1000

/-- The delay requests of PACE: the whole milliseconds, and one more where the remainder exceeds 1000. -/
def paceEvents (r us : Nat) : List Event :=
  if r + us % 1000 > 1000 then [.delay (BitVec.ofNat 32 (us / 1000)), .delay 1#32]
  else [.delay (BitVec.ofNat 32 (us / 1000))]

/-- The remainder never outgrows its 11 bits. -/
theorem paceRem_lt (r : BitVec 11) (us : Nat) : paceRem r.toNat us < 2048 := by
  have := r.isLt
  unfold paceRem
  split <;> omega

theorem State.pace_out : (s.pace p us).out = s.out ++ paceEvents (s.ctxOf p).rem.toNat us := by
  simp only [State.pace, paceEvents]
  split <;> simp

theorem State.pace_ctxOf (p' : Code) : (s.pace p us).ctxOf p' =
    if p' = p then { s.ctxOf p with rem := BitVec.ofNat 11 (paceRem (s.ctxOf p).rem.toNat us) }
    else s.ctxOf p' := by
  simp only [State.pace, paceRem]
  split <;> simp [State.setRem_ctxOf]

@[simp] theorem State.pace_latch : (s.pace p us).latch = s.latch := by simp only [State.pace]; split <;> rfl
@[simp] theorem State.pace_pins : (s.pace p us).pins = s.pins := by simp only [State.pace]; split <;> rfl
@[simp] theorem State.pace_env : (s.pace p us).env = s.env := by simp only [State.pace]; split <;> rfl
@[simp] theorem State.pace_busy : (s.pace p us).busy = s.busy := by simp only [State.pace]; split <;> rfl
@[simp] theorem State.pace_rsp : (s.pace p us).rsp = s.rsp := by simp only [State.pace]; split <;> rfl
@[simp] theorem State.pace_cfg : (s.pace p us).cfg = s.cfg := by simp only [State.pace]; split <;> rfl
@[simp] theorem State.pace_host : (s.pace p us).host = s.host := by simp only [State.pace]; split <;> rfl

/-- Pacing and responding do not see each other. -/
theorem State.pace_respond (v : Word) : (s.respond v).pace p us = (s.pace p us).respond v := by
  have h : (s.respond v).ctxOf p = s.ctxOf p := rfl
  simp only [State.pace, h]
  by_cases hc : (s.ctxOf p).rem.toNat + us % 1000 > 1000
  · simp only [if_pos hc]; rfl
  · simp only [if_neg hc]; rfl

theorem State.pace_posOf (p' : Code) : (s.pace p us).posOf p' = s.posOf p' := by
  unfold State.posOf
  rw [State.pace_ctxOf]
  split
  · next h => subst h; rfl
  · rfl

end

/-! STEP's loops (rules R196, R197). -/

section
variable (p : Code) (e : PortEntry) (dir : Direction) (style : Style) (us : Nat)

/-- The position after an iteration is that of its step. -/
theorem State.pacedStep_posOf : (s.pacedStep p e dir style us).posOf p = s.nextPos p dir style := by
  rw [State.pacedStep, State.pace_posOf, State.oneStepCore_posOf]

@[simp] theorem State.pacedStep_cfg : (s.pacedStep p e dir style us).cfg = s.cfg := by simp [State.pacedStep]
@[simp] theorem State.pacedStep_host : (s.pacedStep p e dir style us).host = s.host := by simp [State.pacedStep]
@[simp] theorem State.pacedStep_busy : (s.pacedStep p e dir style us).busy = s.busy := by simp [State.pacedStep]
@[simp] theorem State.pacedStep_rsp : (s.pacedStep p e dir style us).rsp = s.rsp := by simp [State.pacedStep]
@[simp] theorem State.pacedStep_latch :
    (s.pacedStep p e dir style us).latch = (s.oneStepCore p e dir style).latch := by simp [State.pacedStep]

@[simp] theorem State.mainLoop_zero : State.mainLoop p e dir style us 0 s = s := rfl

@[simp] theorem State.mainLoop_succ (n : Nat) : State.mainLoop p e dir style us (n + 1) s =
    State.mainLoop p e dir style us n (s.pacedStep p e dir style us) := rfl

/-- The main loop in two parts. -/
theorem State.mainLoop_add (m n : Nat) : State.mainLoop p e dir style us (m + n) s =
    State.mainLoop p e dir style us n (State.mainLoop p e dir style us m s) := by
  induction m generalizing s with
  | zero => simp
  | succ m ih => rw [Nat.succ_add, State.mainLoop_succ, ih, State.mainLoop_succ]

/-- What every iteration keeps, the main loop keeps. -/
theorem State.mainLoop_induct {P : State → Prop}
    (hstep : ∀ u, P u → P (u.pacedStep p e dir style us)) (n : Nat) (h : P s) :
    P (State.mainLoop p e dir style us n s) := by
  induction n generalizing s with
  | zero => exact h
  | succ n ih => exact ih _ (hstep s h)

/-- What every iteration keeps, the tail loop keeps. -/
theorem State.tailLoop_induct {P : State → Prop}
    (hstep : ∀ u, P u → P (u.pacedStep p e dir .microstep us)) (n : Nat) (h : P s) :
    P (State.tailLoop p e dir us n s) := by
  induction n generalizing s with
  | zero => exact h
  | succ n ih =>
    rw [State.tailLoop]
    split
    · exact ih _ (hstep s h)
    · exact h

/-- The whole of STEP's loops: what every iteration keeps, they keep. -/
theorem State.loops_induct {P : State → Prop}
    (hstep : ∀ u st, P u → P (u.pacedStep p e dir st us)) (n m : Nat) (h : P s) :
    P (State.tailLoop p e dir us m (State.mainLoop p e dir style us n s)) :=
  State.tailLoop_induct _ p e dir us (fun u => hstep u .microstep) m
    (State.mainLoop_induct s p e dir style us (fun u => hstep u style) n h)

end

/-! The checks (rules R216 to R219). -/

section
variable (p : Code)

/-- What the port check answers (rule R216). -/
theorem State.checkPort_cases :
    (∃ e, s.cfg.coilMap? p = some e ∧ s.checkPort p = .ok e) ∨
    (s.cfg.coilMap? p = none ∧ s.checkPort p = .error .badPort) := by
  unfold State.checkPort
  cases h : s.cfg.coilMap? p with
  | none => simp
  | some e => simp

/-- What the construction check answers (rules R216, R217). -/
theorem State.checkConstructed_cases :
    (∃ e, s.cfg.coilMap? p = some e ∧ (s.ctxOf p).valid = true ∧ s.checkConstructed p = .ok e) ∨
    (s.cfg.coilMap? p = none ∧ s.checkConstructed p = .error .badPort) ∨
    (∃ e, s.cfg.coilMap? p = some e ∧ (s.ctxOf p).valid = false ∧
      s.checkConstructed p = .error .notConstructed) := by
  unfold State.checkConstructed
  rcases s.checkPort_cases p with ⟨e, he, hc⟩ | ⟨hn, hc⟩
  · cases hv : (s.ctxOf p).valid <;> simp [hc, he]
  · simp [hc, hn]

/-- What the four checks of ONESTEP and STEP answer when they pass (rules R216 to R219). -/
theorem State.checkMotion_ok {dir style : Code} {e : PortEntry} {d : Direction} {st : Style}
    (h : s.checkMotion p dir style = .ok (e, d, st)) :
    s.cfg.coilMap? p = some e ∧ (s.ctxOf p).valid = true ∧ directionOf dir = some d ∧ styleOf style = some st := by
  unfold State.checkMotion at h
  rcases s.checkConstructed_cases p with ⟨e', he, hv, hc⟩ | ⟨_, hc⟩ | ⟨_, _, _, hc⟩
  · cases hd : directionOf dir <;> cases hs : styleOf style <;> simp_all
  · simp [hc] at h
  · simp [hc] at h

/-- The four checks pass when each does (rules R216 to R219). -/
theorem State.checkMotion_of {dir style : Code} {e : PortEntry} {d : Direction} {st : Style}
    (he : s.cfg.coilMap? p = some e) (hv : (s.ctxOf p).valid = true)
    (hd : directionOf dir = some d) (hs : styleOf style = some st) :
    s.checkMotion p dir style = .ok (e, d, st) := by
  simp [State.checkMotion, State.checkConstructed, State.checkPort, he, hv, hd, hs]

end

/-! What a command can do: each either raises an error or takes its own effect. -/

/-- NEW (rule R186). -/
theorem execNew_cases (p : Code) (spr : Word) :
    (∃ err, execNew p spr s = .next (s.raise err)) ∨
    (∃ e, s.cfg.coilMap? p = some e ∧ execNew p spr s = .next ((s.setCtx p
      { s.ctxOf p with valid := true, spr := spr, pos := 0#32, usps := 0#32, rem := 0#11 }).respond 0#32)) := by
  unfold execNew
  rcases s.checkPort_cases p with ⟨e, he, hc⟩ | ⟨_, hc⟩
  · exact .inr ⟨e, he, by simp [hc]⟩
  · exact .inl ⟨.badPort, by simp [hc]⟩

/-- SETSPEED (rule R189). -/
theorem execSetspeed_cases (p : Code) (rpm : Word) :
    (∃ err, execSetspeed p rpm s = .next (s.raise err)) ∨
    (∃ e, s.cfg.coilMap? p = some e ∧ (s.ctxOf p).valid = true ∧ (s.ctxOf p).spr.toNat * rpm.toNat ≠ 0 ∧
      execSetspeed p rpm s = .next ((s.setCtx p
        { s.ctxOf p with
          usps := BitVec.ofNat 32 (60000000 / ((s.ctxOf p).spr.toNat * rpm.toNat)), rem := 0#11 }).respond 0#32)) := by
  unfold execSetspeed
  rcases s.checkConstructed_cases p with ⟨e, he, hv, hc⟩ | ⟨_, hc⟩ | ⟨_, _, _, hc⟩
  · rw [hc]
    dsimp only
    split
    · exact .inl ⟨_, rfl⟩
    · next hd => exact .inr ⟨e, he, hv, hd, rfl⟩
  · exact .inl ⟨.badPort, by simp [hc]⟩
  · exact .inl ⟨.notConstructed, by simp [hc]⟩

/-- ONESTEP (rule R170). -/
theorem execOnestep_cases (p dir style : Code) :
    (∃ err, execOnestep p dir style s = .next (s.raise err)) ∨
    (∃ e d st, s.cfg.coilMap? p = some e ∧ (s.ctxOf p).valid = true ∧ directionOf dir = some d ∧
      styleOf style = some st ∧ execOnestep p dir style s =
        .next ((s.oneStepCore p e d st).respond (BitVec.ofNat 32 (s.nextPos p d st)))) := by
  unfold execOnestep
  cases hc : s.checkMotion p dir style with
  | error err => exact .inl ⟨err, rfl⟩
  | ok r =>
    obtain ⟨e, d, st⟩ := r
    obtain ⟨h1, h2, h3, h4⟩ := s.checkMotion_ok p hc
    exact .inr ⟨e, d, st, h1, h2, h3, h4, rfl⟩

/-- STEP (rule R193). For a style without a tail loop, the bound of the tail loop is 0. -/
theorem execStep_cases (p dir style : Code) (count : Word) :
    (∃ err, execStep p dir style count s = .next (s.raise err)) ∨
    (∃ e d st, s.cfg.coilMap? p = some e ∧ (s.ctxOf p).valid = true ∧ directionOf dir = some d ∧
      styleOf style = some st ∧ execStep p dir style count s =
        .next ((State.tailLoop p e d (stepDelay s.cfg st (s.ctxOf p).usps.toNat)
          (if st = .microstep then s.cfg.cycle else 0)
          (State.mainLoop p e d st (stepDelay s.cfg st (s.ctxOf p).usps.toNat)
            (stepCount s.cfg st count.toNat) s)).respond 0#32)) := by
  unfold execStep
  cases hc : s.checkMotion p dir style with
  | error err => exact .inl ⟨err, rfl⟩
  | ok r =>
    obtain ⟨e, d, st⟩ := r
    obtain ⟨h1, h2, h3, h4⟩ := s.checkMotion_ok p hc
    refine .inr ⟨e, d, st, h1, h2, h3, h4, ?_⟩
    cases st <;> rfl

/-- RELEASE (rule R175). -/
theorem execRelease_cases (p : Code) :
    (∃ err, execRelease p s = .next (s.raise err)) ∨
    (∃ e, s.cfg.coilMap? p = some e ∧ (s.ctxOf p).valid = true ∧ execRelease p s =
      .next (((((s.disableCoils e).transmit).programDuty p .A 0#8).programDuty p .B 0#8).respond 0#32)) := by
  unfold execRelease
  rcases s.checkConstructed_cases p with ⟨e, he, hv, hc⟩ | ⟨_, hc⟩ | ⟨_, _, _, hc⟩
  · exact .inr ⟨e, he, hv, by simp [hc]⟩
  · exact .inl ⟨.badPort, by simp [hc]⟩
  · exact .inl ⟨.notConstructed, by simp [hc]⟩

/-! Where a command's checks pass, it takes its own effect. -/

section
variable {p : Code} {e : PortEntry}

/-- NEW on a port of `PORTS` (rule R186). -/
theorem execNew_of (he : s.cfg.coilMap? p = some e) (spr : Word) : execNew p spr s = .next ((s.setCtx p
    { s.ctxOf p with valid := true, spr := spr, pos := 0#32, usps := 0#32, rem := 0#11 }).respond 0#32) := by
  simp [execNew, State.checkPort, he]

/-- SETSPEED with a product that is not zero (rule R189). -/
theorem execSetspeed_of (he : s.cfg.coilMap? p = some e) (hv : (s.ctxOf p).valid = true) {rpm : Word}
    (hd : (s.ctxOf p).spr.toNat * rpm.toNat ≠ 0) : execSetspeed p rpm s = .next ((s.setCtx p
      { s.ctxOf p with
        usps := BitVec.ofNat 32 (60000000 / ((s.ctxOf p).spr.toNat * rpm.toNat)), rem := 0#11 }).respond 0#32) := by
  simp only [execSetspeed, State.checkConstructed, State.checkPort, he, hv, if_true, if_neg hd]

/-- ONESTEP with valid operands (rule R170). -/
theorem execOnestep_of (he : s.cfg.coilMap? p = some e) (hv : (s.ctxOf p).valid = true) {dir style : Code}
    {d : Direction} {st : Style} (hd : directionOf dir = some d) (hs : styleOf style = some st) :
    execOnestep p dir style s =
      .next ((s.oneStepCore p e d st).respond (BitVec.ofNat 32 (s.nextPos p d st))) := by
  simp [execOnestep, s.checkMotion_of p he hv hd hs]

/-- STEP with valid operands (rule R193); without a tail loop, its bound is 0. -/
theorem execStep_of (he : s.cfg.coilMap? p = some e) (hv : (s.ctxOf p).valid = true) {dir style : Code}
    {d : Direction} {st : Style} (hd : directionOf dir = some d) (hs : styleOf style = some st) (count : Word) :
    execStep p dir style count s =
      .next ((State.tailLoop p e d (stepDelay s.cfg st (s.ctxOf p).usps.toNat)
        (if st = .microstep then s.cfg.cycle else 0)
        (State.mainLoop p e d st (stepDelay s.cfg st (s.ctxOf p).usps.toNat)
          (stepCount s.cfg st count.toNat) s)).respond 0#32) := by
  simp only [execStep, s.checkMotion_of p he hv hd hs]
  cases st <;> rfl

/-- RELEASE of a constructed port (rule R175). -/
theorem execRelease_of (he : s.cfg.coilMap? p = some e) (hv : (s.ctxOf p).valid = true) : execRelease p s =
    .next (((((s.disableCoils e).transmit).programDuty p .A 0#8).programDuty p .B 0#8).respond 0#32) := by
  simp [execRelease, State.checkConstructed, State.checkPort, he, hv]

end

end Sys2Proof.Machine
end

