-- ==== Sys2Proof/Laws/PerInstr.lean ====
section
/-! SUPPORT. A statement made per instruction: the encoding of each command selects the command's own row of the
opcode map (rule R89). -/

namespace Sys2Proof.Laws

/-- The `mask` and `match` columns of the row of a command (rule R89). -/
def opcodeRow : Instr → Command × Command
  | .new _ _ => (0xF1FF00000000#48, 0x100000000000#48)
  | .setspeed _ _ => (0xF1FF00000000#48, 0x200000000000#48)
  | .onestep _ _ _ => (0xF007FFFFFFFF#48, 0x300000000000#48)
  | .step _ _ _ _ => (0xF00700000000#48, 0x400000000000#48)
  | .release _ => (0xF1FFFFFFFFFF#48, 0x500000000000#48)
  | .latchw _ _ => (0xFFFFFFFF0000#48, 0x600000000000#48)

/-- "A word `c` selects the row when `c AND mask = match`" (rule R89), for the word a command encodes to. -/
def SelectsItsRow.Statement (i : Instr) : Prop := encode i &&& (opcodeRow i).1 = (opcodeRow i).2

theorem SelectsItsRow.new (port : Code) (spr : Word) : SelectsItsRow.Statement (.new port spr) := by
  simp only [SelectsItsRow.Statement, opcodeRow, encode, row_new, fields_commandOf, and_self]

theorem SelectsItsRow.setspeed (port : Code) (rpm : Word) : SelectsItsRow.Statement (.setspeed port rpm) := by
  simp only [SelectsItsRow.Statement, opcodeRow, encode, row_setspeed, fields_commandOf, and_self]

theorem SelectsItsRow.onestep (port dir style : Code) : SelectsItsRow.Statement (.onestep port dir style) := by
  simp only [SelectsItsRow.Statement, opcodeRow, encode, row_onestep, fields_commandOf, and_self]

theorem SelectsItsRow.step (port dir style : Code) (count : Word) :
    SelectsItsRow.Statement (.step port dir style count) := by
  simp only [SelectsItsRow.Statement, opcodeRow, encode, row_step, fields_commandOf, and_self]

theorem SelectsItsRow.release (port : Code) : SelectsItsRow.Statement (.release port) := by
  simp only [SelectsItsRow.Statement, opcodeRow, encode, row_release, fields_commandOf, and_self]

theorem SelectsItsRow.latchw (mask value : Byte) : SelectsItsRow.Statement (.latchw mask value) := by
  simp only [SelectsItsRow.Statement, opcodeRow, encode, row_latchw, fields_commandOf, true_and]
  simp only [eq_iff_bits, BitVec.getLsbD_extractLsb', BitVec.getLsbD_append]
  intro k hk
  interval_cases k <;> simp

end Sys2Proof.Laws
end

