-- ==== Sys2Proof/Laws/Tables.lean ====
section
/-! SUPPORT. The look-ups in the tables: DUTY by quadrant and offset (rule R150), the members of the enable sets
(rule R139), the bits of the masks (rules R130, R138), and what `PORTS` holds. -/

namespace Sys2Proof

/-- A port is in `PORTS` when it has a coil map (rules R52, R216). -/
theorem Config.hasPort_eq_true (c : Config) (p : Code) : c.hasPort p = true ↔ ∃ e, c.coilMap? p = some e := by
  simp [Config.hasPort, Option.isSome_iff_exists]

theorem Config.hasPort_eq_false (c : Config) (p : Code) : c.hasPort p = false ↔ c.coilMap? p = none := by
  simp [Config.hasPort]

/-- The entry found for a port is one of the list's and carries its identifier. -/
theorem Config.coilMap?_mem {c : Config} {p : Code} {e : PortEntry} (h : c.coilMap? p = some e) :
    e ∈ c.ports ∧ e.id = p :=
  ⟨List.mem_of_find?_eq_some h, by simpa using List.find?_some h⟩

/-- Every coil's bit is a bit of the port mask (rule R130). -/
theorem PortEntry.portMask_bit (e : PortEntry) (x : Coil) (k : Nat) (h : (e.coilMask x).getLsbD k = true) :
    e.portMask.getLsbD k = true := by
  simp only [PortEntry.portMask, BitVec.getLsbD_or]
  cases x <;> simp [h]

/-- A bit of `ENBITS(p, S)` is the bit of a member of `S` (rule R138). -/
theorem PortEntry.enBits_bit (e : PortEntry) (S : List Coil) (k : Nat) :
    (e.enBits S).getLsbD k = true ↔ ∃ x ∈ S, (e.coilMask x).getLsbD k = true := by
  induction S with
  | nil => simp [PortEntry.enBits]
  | cons x S ih => simp [PortEntry.enBits, ih]

namespace Machine

/-- Every position of the cycle is a quadrant and an offset (rule R149). -/
theorem position_split (c : Config) (pos : Nat) (h : pos < 4 * c.M) :
    ∃ q off, q < 4 ∧ off < c.M ∧ pos = q * c.M + off :=
  ⟨pos / c.M, pos % c.M, by rw [Nat.div_lt_iff_lt_mul c.M_pos]; omega, Nat.mod_lt _ c.M_pos,
    by rw [Nat.mul_comm]; exact (Nat.div_add_mod _ _).symm⟩

/-- DUTY by quadrant and offset: the even quadrants are alike, and the odd ones (rule R150). -/
theorem duty_eq (c : Config) (q off : Nat) (hq : q < 4) (ho : off < c.M) :
    duty c (q * c.M + off) =
      if q % 2 = 0 then (c.curveAt (c.M - off), c.curveAt off) else (c.curveAt off, c.curveAt (c.M - off)) := by
  have h1 : (q * c.M + off) / c.M = q := by
    rw [Nat.mul_comm, Nat.mul_add_div c.M_pos, Nat.div_eq_of_lt ho, Nat.add_zero]
  have h2 : q * c.M + off - q * c.M = off := by omega
  simp only [duty, h1, h2]
  interval_cases q <;> rfl

/-- No enable set is empty (rule R139 (a)). -/
theorem enables_nonempty (c : Config) (style : Style) (pos : Nat) : ∃ x, x ∈ enables c style pos := by
  have h8 : ∀ k : Fin 8, ∃ x, x ∈ phase8 k := fun k => by fin_cases k <;> exact ⟨_, List.mem_cons_self⟩
  have h4 : ∀ k : Fin 4, ∃ x, x ∈ quad4 k := fun k => by fin_cases k <;> exact ⟨_, List.mem_cons_self⟩
  cases style <;> simp only [enables]
  · exact h8 _
  · exact h8 _
  · exact h8 _
  · exact h4 _

end Machine

end Sys2Proof
end

