-- ==== Sys2Proof/Tests/Slice0.lean ====
section
/-! SUPPORT. The model's own tests: ill-formed terms are refused, words written out from the spec's encodings decode,
single commands do what the vectors of spec/95_test_vectors.md say, and every statement with hypotheses has a concrete
state and operands that meet them. -/

namespace Sys2Proof.Tests

open Sys2Proof.Machine

/-! ## Helpers -/

/-- An environment with known contents. -/
def env0 : Env := { sr := 0#8, q := 0#8, duties := Vector.replicate 8 ⟨0#8, 0#8⟩ }

/-- A block after reset with a known environment. -/
def idle (c : Config) : State := { State.resetWith c with env := env0 }

/-- Port 2 constructed with the given position, speed and remainder; the latch word as given. -/
def ready (c : Config) (latch : Byte) (pos usps : Word) (rem : BitVec 11) : State :=
  State.setCtx { idle c with latch := latch } 2#3
    { valid := true, spr := 200#32, pos := pos, usps := usps, rem := rem, ocrA := 0#8, ocrB := 0#8 }

/-- The default block with port 2 constructed and standing at `pos`. -/
def at2 (pos : Word) : State := ready defaultConfig 0x00#8 pos 5000#32 0#11

/-- One fact of the next state. -/
def after {α : Type} (o : Host.Outcome State Fault Refusal) (f : State → α) : Option α :=
  match o with
  | .next t => some (f t)
  | .fault _ => none
  | .refused _ => none

/-- The default block, port 2 constructed, presented with a word. -/
def presented (w : Command) : State := { at2 0#32 with host := [.command w] }

/-! ## WellFormed: each check refuses a term that fails it -/

theorem test_wf_new_port_0 : Instr.wellFormed defaultConfig (.new 0#3 200#32) = false := by decide
theorem test_wf_setspeed_port_3 : Instr.wellFormed defaultConfig (.setspeed 3#3 60#32) = false := by decide
theorem test_wf_onestep_port_7 : Instr.wellFormed defaultConfig (.onestep 7#3 1#3 1#3) = false := by decide
theorem test_wf_onestep_dir_3 : Instr.wellFormed defaultConfig (.onestep 2#3 3#3 1#3) = false := by decide
theorem test_wf_onestep_style_5 : Instr.wellFormed defaultConfig (.onestep 2#3 1#3 5#3) = false := by decide
theorem test_wf_step_port_5 : Instr.wellFormed defaultConfig (.step 5#3 1#3 1#3 1#32) = false := by decide
theorem test_wf_step_dir_0 : Instr.wellFormed defaultConfig (.step 2#3 0#3 1#3 1#32) = false := by decide
theorem test_wf_step_style_0 : Instr.wellFormed defaultConfig (.step 2#3 1#3 0#3 1#32) = false := by decide
theorem test_wf_release_port_4 : Instr.wellFormed defaultConfig (.release 4#3) = false := by decide
theorem test_wf_good : Instr.wellFormed defaultConfig (.step 1#3 2#3 4#3 1#32) = true ∧
    Instr.wellFormed defaultConfig (.latchw 0xFF#8 0#8) = true := by decide

theorem test_legal_default : defaultConfig.Legal ∧ defaultConfig9.Legal := by decide
theorem test_legal_curve_length : ¬ Config.Legal { defaultConfig with points := .nine } := by decide
theorem test_legal_curve_first :
    ¬ Config.CurveLegal { defaultConfig9 with curve := [1, 50, 98, 142, 180, 212, 236, 250, 255] } := by decide
theorem test_legal_curve_last :
    ¬ Config.CurveLegal { defaultConfig9 with curve := [0, 50, 98, 142, 180, 212, 236, 250, 254] } := by decide
theorem test_legal_curve_falls :
    ¬ Config.CurveLegal { defaultConfig9 with curve := [0, 98, 50, 142, 180, 212, 236, 250, 255] } := by decide
theorem test_legal_curve_inner_zero :
    ¬ Config.CurveLegal { defaultConfig9 with curve := [0, 0, 98, 142, 180, 212, 236, 250, 255] } := by decide
theorem test_legal_curve_inner_255 :
    ¬ Config.CurveLegal { defaultConfig9 with curve := [0, 50, 98, 142, 180, 212, 236, 255, 255] } := by decide
theorem test_legal_bits_repeat : ¬ Config.PortsLegal { defaultConfig with ports := [⟨1, 2, 2, 3, 4⟩] } := by decide
theorem test_legal_port_0 : ¬ Config.PortsLegal { defaultConfig with ports := [⟨0, 2, 1, 3, 4⟩] } := by decide
theorem test_legal_ports_share :
    ¬ Config.PortsLegal { defaultConfig with ports := [⟨1, 2, 1, 3, 4⟩, ⟨2, 5, 0, 7, 4⟩] } := by decide
theorem test_legal_port_twice :
    ¬ Config.PortsLegal { defaultConfig with ports := [⟨1, 2, 1, 3, 4⟩, ⟨1, 5, 0, 7, 6⟩] } := by decide

/-! ## Decode: words written out field by field from rule R89's patterns -/

/-- `0001 ppp 000 000 000 i×32`, p = 2, i = 200. -/
theorem test_decode_new :
    decode 0b000101000000000000000000000000000000000011001000#48 = .ok (.new 2#3 200#32) := by rfl
/-- `0010 ppp 000 000 000 i×32`, p = 2, i = 60. -/
theorem test_decode_setspeed :
    decode 0b001001000000000000000000000000000000000000111100#48 = .ok (.setspeed 2#3 60#32) := by rfl
/-- `0011 ppp ddd sss 000 0×32`, p = 1, d = 2, s = 4. -/
theorem test_decode_onestep :
    decode 0b001100101010000000000000000000000000000000000000#48 = .ok (.onestep 1#3 2#3 4#3) := by rfl
/-- `0100 ppp ddd sss 000 i×32`, p = 2, d = 2, s = 4, i = 2^32 − 1. -/
theorem test_decode_step :
    decode 0b010001001010000011111111111111111111111111111111#48 = .ok (.step 2#3 2#3 4#3 0xFFFFFFFF#32) := by rfl
/-- `0101 ppp 000 000 000 0×32`, p = 1. -/
theorem test_decode_release :
    decode 0b010100100000000000000000000000000000000000000000#48 = .ok (.release 1#3) := by rfl
/-- `0110 000 000 000 000 0×16 m×8 v×8`, m = 0x1E, v = 0x04. -/
theorem test_decode_latchw :
    decode 0b011000000000000000000000000000000001111000000100#48 = .ok (.latchw 0x1E#8 0x04#8) := by rfl
/-- The words of V-ENC, as the encoder writes them. -/
theorem test_encode_words :
    encode (.new 1#3 200#32) = 0x1200000000C8#48 ∧ encode (.setspeed 2#3 60#32) = 0x24000000003C#48 ∧
    encode (.onestep 2#3 2#3 3#3) = 0x349800000000#48 ∧ encode (.step 1#3 2#3 3#3 3#32) = 0x429800000003#48 ∧
    encode (.release 2#3) = 0x540000000000#48 ∧ encode (.latchw 0x21#8 0x21#8) = 0x600000002121#48 := by decide
/-- The illegal words of V-ERR. -/
theorem test_decode_illegal :
    decode 0x000000000000#48 = .error .badEncoding ∧ decode 0x700000000000#48 = .error .badEncoding ∧
    decode 0xFFFFFFFFFFFF#48 = .error .badEncoding ∧ decode 0x344800000001#48 = .error .badEncoding ∧
    decode 0x344900000000#48 = .error .badEncoding ∧ decode 0x540800000000#48 = .error .badEncoding ∧
    decode 0x24800000003C#48 = .error .badEncoding ∧ decode 0x600000010000#48 = .error .badEncoding ∧
    decode 0x620000000000#48 = .error .badEncoding := by
  refine ⟨?_, ?_, ?_, ?_, ?_, ?_, ?_, ?_, ?_⟩ <;> rfl
/-- The table's bits of a row, as the host asks for them. -/
theorem test_decodeTableWord : decodeTableWord 48 0x446000000010 = some (.step 2#3 1#3 4#3 16#32) ∧
    decodeTableWord 48 0 = none := by decide

/-! ## Single commands (V-NEW, V-SETSPEED, V-ONESTEP, V-STEP, V-RELEASE, V-LATCHW, V-ERR) -/

/-- V-NEW row 5: OCRA keeps its value, the position does not. -/
theorem test_new_again : after (exec (.new 2#3 400#32) (at2 37#32))
    (fun t => ((t.ctxOf 2#3).spr, (t.ctxOf 2#3).pos, (t.ctxOf 2#3).usps, t.rsp)) =
    some (400#32, 0#32, 0#32, some 0#40) := by decide
/-- V-NEW: `NEW 3, 200` is refused with BAD_PORT. -/
theorem test_new_bad_port : after (exec (.new 3#3 200#32) (at2 0#32)) (fun t => t.rsp) =
    some (some 0x5000000000#40) := by decide
/-- V-SETSPEED: SPR 200, rpm 7 gives 42857. -/
theorem test_setspeed_7 : after (exec (.setspeed 2#3 7#32) (at2 0#32)) (fun t => (t.ctxOf 2#3).usps) =
    some 42857#32 := by decide
/-- V-SETSPEED: rpm 0 is the arithmetic fault and USPS stays. -/
theorem test_setspeed_0 : after (exec (.setspeed 2#3 0#32) (at2 0#32))
    (fun t => ((t.ctxOf 2#3).usps, t.rsp)) = some (5000#32, some 0x8800000000#40) := by decide
/-- V-ONESTEP: from 0 backward, Microstep, to 63, duties 253 and 25. -/
theorem test_onestep_backward_wrap : after (exec (.onestep 2#3 2#3 4#3) (at2 0#32))
    (fun t => (t.rsp, t.latch, (t.ctxOf 2#3).ocrA, (t.ctxOf 2#3).ocrB)) =
    some (some 0x000000003F#40, 0x60#8, 253#8, 25#8) := by decide
/-- Rule R173's example: LATCH 0x04, Double from 0. -/
theorem test_onestep_keeps_port_1 :
    after (exec (.onestep 2#3 1#3 2#3) (ready defaultConfig 0x04#8 0#32 0#32 0#11))
    (fun t => (t.latch, (t.ctxOf 2#3).pos, t.out.drop 27, t.env.q)) =
    some (0x25#8, 8#32, [.pwmSet 2#3 .A 180#8, .pwmSet 2#3 .B 180#8], 0x25#8) := by decide
/-- V-STEP row 2's kind: two Single steps, each followed by `Delay(5)`. -/
theorem test_step_single_2 : after (exec (.step 2#3 1#3 1#3 2#32) (at2 0#32))
    (fun t => ((t.ctxOf 2#3).pos, t.latch, totalMs t.out, t.out.length)) =
    some (32#32, 0x80#8, 10, 60) := by decide
/-- V-STEP: `count = 0`, Microstep, BWD from 5: the tail loop alone, five steps to 0. -/
theorem test_step_tail_only : after (exec (.step 2#3 2#3 4#3 0#32) (at2 5#32))
    (fun t => ((t.ctxOf 2#3).pos, (t.ctxOf 2#3).rem, t.latch)) = some (0#32, 560#11, 0x21#8) := by decide
/-- V-RELEASE row 1. -/
theorem test_release : after (exec (.release 2#3) (ready defaultConfig 0x25#8 8#32 0#32 0#11))
    (fun t => (t.latch, (t.ctxOf 2#3).pos, t.out.length, t.env.q)) = some (0x04#8, 8#32, 29, 0x04#8) := by decide
/-- V-LATCHW row 5: bits of the value outside the mask are ignored. -/
theorem test_latchw : after (exec (.latchw 0x0F#8 0xF0#8) (ready defaultConfig 0x25#8 0#32 0#32 0#11))
    (fun t => (t.latch, t.out.length, t.env.q)) = some (0x20#8, 27, 0x20#8) := by decide
/-- V-PACE: from 375, 625 µs brings the remainder to exactly 1000, which does not exceed 1000. -/
theorem test_pace_threshold : ((((ready defaultConfig 0#8 0#32 0#32 375#11).pace 2#3 625).ctxOf 2#3).rem,
    (((ready defaultConfig 0#8 0#32 0#32 375#11).pace 2#3 625).pace 2#3 625).out.length) =
    (1000#11, 3) := by decide
/-- V-ERR: the all-zero word. -/
theorem test_step_illegal_word : after (step (presented 0x000000000000#48)) (fun t => (t.rsp, t.out)) =
    some (some 0x4800000000#40, []) := by decide
/-- A word placed by the host is the next one run (log entry 5). -/
theorem test_withFetchWord : after (step (State.reset.withFetchWord 48 0x1400000000C8))
    (fun t => ((t.ctxOf 2#3).valid, (t.ctxOf 2#3).spr, t.rsp, t.host)) =
    some (true, 200#32, some 0#40, []) := by decide
/-- Rule R235: a reset of an idle block un-constructs the port and empties `OUT`. -/
theorem test_reset_action :
    after (step { at2 5#32 with latch := 0x21#8, out := [.delay 1#32], host := [.reset] })
      (fun t => (t.latch, t.ctxOf 2#3, t.out, t.host)) = some (0x00#8, Ctx.reset, [], []) := by decide

/-- Rule R236: LATCHW 0xFF, 0xA5 cut after 26 events leaves `Q`, cut after 27 has committed it. -/
theorem test_cut_short :
    after (step { idle defaultConfig with host := [.commandThenReset 0x60000000FFA5#48 26] })
      (fun t => (t.latch, t.env.sr, t.env.q, t.rsp)) = some (0x00#8, 0xA5#8, 0x00#8, none) ∧
    after (step { idle defaultConfig with host := [.commandThenReset 0x60000000FFA5#48 27] })
      (fun t => (t.latch, t.env.sr, t.env.q, t.rsp)) = some (0x00#8, 0xA5#8, 0xA5#8, none) := by decide

/-! ## Witnesses: the hypotheses of each statement are met -/

theorem witness_EncodeGivesBackEveryDecodedWord : decode 0x1400000000C8#48 = .ok (.new 2#3 200#32) := by rfl

/-- One word for each way to be illegal: op 0, op 7, op 15, rsv, dir, style, imm, port, the high half of imm. -/
theorem witness_IllegalWordsAreRefused :
    (presented 0x000000000000#48).busy = false ∧
    (presented 0x000000000000#48).host = .command 0x000000000000#48 :: [] ∧
    opField 0x000000000000#48 = 0#4 ∧ 7#4 ≤ opField 0x700000000000#48 ∧ 7#4 ≤ opField 0xF00000000000#48 ∧
    rsvField 0x344900000000#48 ≠ 0#3 ∧
    (opField 0x24800000003C#48 = 2#4 ∧ dirField 0x24800000003C#48 ≠ 0#3) ∧
    (opField 0x540800000000#48 = 5#4 ∧ styleField 0x540800000000#48 ≠ 0#3) ∧
    (opField 0x344800000001#48 = 3#4 ∧ immField 0x344800000001#48 ≠ 0#32) ∧
    (opField 0x620000000000#48 = 6#4 ∧ portField 0x620000000000#48 ≠ 0#3) ∧
    (opField 0x600000010000#48 = 6#4 ∧ (immField 0x600000010000#48).extractLsb' 16 16 ≠ 0#16) := by decide

theorem witness_StepRunsTheDecodedCommand :
    (presented 0x1400000000C8#48).busy = false ∧
    (presented 0x1400000000C8#48).host = .command 0x1400000000C8#48 :: [] ∧
    decode 0x1400000000C8#48 = .ok (.new 2#3 200#32) := ⟨rfl, rfl, rfl⟩

theorem witness_BusyOrUnaskedBlockWaits :
    ({ at2 0#32 with busy := true } : State).busy = true ∧ (at2 0#32).busy = false ∧ (at2 0#32).host = [] :=
  ⟨rfl, rfl, rfl⟩

theorem witness_EveryAcceptedCommandIsAnswered :
    (presented 0#48).busy = false ∧ (presented 0#48).host = .command 0#48 :: [] := ⟨rfl, rfl⟩

/-- ONESTEP with a value that is not 0, so that the last clause is met too. -/
theorem witness_ResponsesHaveTheListedCodes :
    ∃ t, step (presented 0x344800000000#48) = .next t ∧ t.rsp = some 0x0000000010#40 ∧
      (0x0000000010#40).extractLsb' 0 32 ≠ 0#32 := ⟨_, rfl, by decide, by decide⟩

theorem witness_RefusedCommandsLeaveNoTrace :
    ∃ t, step (presented 0x34C800000000#48) = .next t ∧ t.rsp = some 0x6000000000#40 ∧
      (0x6000000000#40).extractLsb' 38 2 ≠ 0#2 := ⟨_, rfl, by decide, by decide⟩

/-- Each of the six errors, and none; the words of V-ERR, several with more than one error. -/
theorem witness_TheFirstErrorIsReported :
    (at2 0#32).wordRefusal 0x364800000001#48 = some .badEncoding ∧
    (at2 0#32).wordRefusal 0x36C000000000#48 = some .badPort ∧
    (at2 0#32).wordRefusal 0x32C000000000#48 = some .notConstructed ∧
    (at2 0#32).wordRefusal 0x34C000000000#48 = some .badDirection ∧
    (at2 0#32).wordRefusal 0x34A800000000#48 = some .badStyle ∧
    (at2 0#32).wordRefusal 0x240000000000#48 = some .divByZero ∧
    (at2 0#32).wordRefusal 0x344800000000#48 = none := by decide

theorem witness_NewConstructsTheContext :
    (at2 0#32).cfg.hasPort 3#3 = false ∧ (at2 0#32).cfg.hasPort 2#3 = true := by decide

/-- The four clauses: no port, not constructed, a zero product, a product of 1. -/
theorem witness_SetspeedStoresTheQuotient :
    (at2 0#32).cfg.hasPort 0#3 = false ∧
    ((at2 0#32).cfg.hasPort 1#3 = true ∧ ((at2 0#32).ctxOf 1#3).valid = false) ∧
    ((at2 0#32).cfg.hasPort 2#3 = true ∧ ((at2 0#32).ctxOf 2#3).valid = true ∧
      ((at2 0#32).ctxOf 2#3).spr.toNat * (0#32).toNat = 0 ∧ ((at2 0#32).ctxOf 2#3).spr.toNat * (1#32).toNat ≠ 0 ∧
      60000000 < ((at2 0#32).ctxOf 2#3).spr.toNat * (300001#32).toNat) := by decide

/-- Operands that pass the four checks of ONESTEP and STEP in each style, and a state that refuses. -/
theorem witness_OnestepTakesOneTransition :
    (at2 0#32).refusal (.onestep 2#3 0#3 1#3) = some .badDirection ∧
    (at2 0#32).cfg.coilMap? 2#3 = some ⟨2#3, 5, 0, 7, 6⟩ ∧ ((at2 0#32).ctxOf 2#3).valid = true ∧
    directionOf 1#3 = some .forward ∧ directionOf 2#3 = some .backward ∧ styleOf 1#3 = some .single ∧
    styleOf 2#3 = some .double ∧ styleOf 3#3 = some .interleave ∧ styleOf 4#3 = some .microstep := by decide

/-- The last position of the cycle, with the extreme codes of each field; the hypotheses on the codes hold for each. -/
theorem witness_OnestepMovesByItsCodes :
    (at2 63#32).cfg.coilMap? 2#3 = some ⟨2#3, 5, 0, 7, 6⟩ ∧ ((at2 63#32).ctxOf 2#3).valid = true ∧
    (2#3 = 1#3 ∨ 2#3 = (2#3 : Code)) ∧ (4#3 = 1#3 ∨ 4#3 = 2#3 ∨ 4#3 = 3#3 ∨ 4#3 = (4#3 : Code)) ∧
    (at2 63#32).posOf 2#3 / (at2 63#32).cfg.H % 2 = 1 ∧ (at2 0#32).posOf 2#3 / (at2 0#32).cfg.H % 2 = 0 := by decide

/-- Operands of an iteration, with a remainder that a delay of 1 brings over 1000 and one that it does not. -/
theorem witness_OneIterationIsOnestepThenPace :
    (at2 0#32).cfg.coilMap? 2#3 = some ⟨2#3, 5, 0, 7, 6⟩ ∧ ((at2 0#32).ctxOf 2#3).valid = true ∧
    directionOf 2#3 = some .backward ∧ styleOf 4#3 = some .microstep ∧
    ((at2 0#32).ctxOf 2#3).rem.toNat + 1 % 1000 ≤ 1000 ∧
    ((ready defaultConfig 0#8 0#32 0#32 1000#11).ctxOf 2#3).rem.toNat + 1 % 1000 > 1000 := by decide

theorem witness_OnestepEnergisesThePort :
    (at2 0#32).cfg.Legal ∧ (at2 0#32).cfg.coilMap? 2#3 = some ⟨2#3, 5, 0, 7, 6⟩ ∧
    ((at2 0#32).ctxOf 2#3).valid = true ∧ directionOf 1#3 = some .forward ∧
    styleOf 4#3 = some .microstep := by decide

theorem witness_ReleaseDeenergisesThePort :
    (at2 0#32).refusal (.release 1#3) = some .notConstructed ∧
    (at2 0#32).cfg.coilMap? 2#3 = some ⟨2#3, 5, 0, 7, 6⟩ ∧ ((at2 0#32).ctxOf 2#3).valid = true := by decide

theorem witness_ReleaseIsIdempotent :
    (at2 0#32).cfg.hasPort 2#3 = true ∧ ((at2 0#32).ctxOf 2#3).valid = true := by decide

theorem witness_StepRepeatsTheStepCountTimes :
    (at2 0#32).refusal (.step 2#3 1#3 7#3 1#32) = some .badStyle ∧
    (at2 0#32).cfg.coilMap? 2#3 = some ⟨2#3, 5, 0, 7, 6⟩ ∧ ((at2 0#32).ctxOf 2#3).valid = true ∧
    directionOf 1#3 = some .forward ∧ styleOf 3#3 = some .interleave ∧ Style.interleave ≠ .microstep := by decide

/-- Each row of rule R197's table: the position `x` after the main loop at 0, at `M`, between them and beyond, forward
and backward; positions 0, 16, 1 and 63 with count 0, where `x` is the position itself. -/
theorem witness_MicrostepStepRunsToRest :
    (∀ pos : Word, (at2 pos).cfg.coilMap? 2#3 = some ⟨2#3, 5, 0, 7, 6⟩ ∧ ((at2 pos).ctxOf 2#3).valid = true ∧
      (at2 pos).posOf 2#3 = pos.toNat) ∧
    (∀ x ∈ [0, 16, 1, 63], x < 4 * defaultConfig.M ∧ microstepsFrom defaultConfig .forward x (0 * 16) = x ∧
      microstepsFrom defaultConfig .backward x (0 * 16) = x) ∧
    directionOf 1#3 = some .forward ∧ directionOf 2#3 = some .backward ∧ styleOf 4#3 = some .microstep :=
  ⟨fun _ => ⟨rfl, rfl, rfl⟩, by decide, by decide, by decide, by decide⟩

theorem witness_StepEndsAtTheClosedFormPosition :
    (at2 63#32).cfg.coilMap? 2#3 = some ⟨2#3, 5, 0, 7, 6⟩ ∧ ((at2 63#32).ctxOf 2#3).valid = true ∧
    directionOf 1#3 = some .forward ∧ styleOf 1#3 = some .single ∧ Style.single ≠ .microstep ∧
    (at2 63#32).posOf 2#3 < 4 * (at2 63#32).cfg.M := by decide

/-- Both clauses: a STEP that takes no step, and one that does. -/
theorem witness_StepEndsInThePhaseOfItsPosition :
    (at2 0#32).cfg.coilMap? 2#3 = some ⟨2#3, 5, 0, 7, 6⟩ ∧ ((at2 0#32).ctxOf 2#3).valid = true ∧
    directionOf 1#3 = some .forward ∧ styleOf 4#3 = some .microstep ∧
    (at2 0#32).posOf 2#3 < 4 * (at2 0#32).cfg.M ∧
    stepsTaken (at2 0#32).cfg .forward .microstep ((at2 0#32).posOf 2#3) 0 = 0 ∧
    stepsTaken (at2 0#32).cfg .forward .microstep ((at2 0#32).posOf 2#3) 2 = 64 := by decide

theorem witness_StepCountsAdd :
    (1#3 : Code) ≠ 4#3 ∧ (1#32).toNat + (1#32).toNat < 2 ^ 32 ∧
    ∃ t u v, exec (.step 2#3 1#3 1#3 (1#32 + 1#32)) (at2 0#32) = .next t ∧
      exec (.step 2#3 1#3 1#3 1#32) (at2 0#32) = .next u ∧ exec (.step 2#3 1#3 1#3 1#32) u = .next v :=
  ⟨by decide, by decide, _, _, _, rfl, rfl, rfl⟩

/-- Each clause: a command of each kind that no check refuses, one that a check refuses, and STEP's codes. -/
theorem witness_CommandsEmitTheListedNumberOfEvents :
    (∀ i ∈ [.new 2#3 200#32, .setspeed 2#3 60#32, .onestep 2#3 1#3 1#3, .step 2#3 1#3 2#3 1#32, .release 2#3,
        .latchw 0xFF#8 0x00#8],
      (at2 63#32).refusal i = none) ∧
    (at2 63#32).refusal (.release 1#3) = some .notConstructed ∧
    (∃ t, exec (.step 2#3 1#3 2#3 1#32) (at2 63#32) = .next t) ∧
    (∀ p, (at2 63#32).posOf p < 4 * (at2 63#32).cfg.M) ∧ directionOf 1#3 = some .forward ∧
    styleOf 2#3 = some .double := ⟨by decide, by decide, ⟨_, rfl⟩, by decide, by decide, by decide⟩

/-- The remainder at its bound, and a delay that brings it over 1000 and one that does not. -/
theorem witness_PaceRequestsAndCarries :
    60000000 ≤ 60000000 ∧ ((ready defaultConfig 0#8 0#32 0#32 1000#11).ctxOf 2#3).rem.toNat ≤ 1000 ∧
    ((ready defaultConfig 0#8 0#32 0#32 1000#11).ctxOf 2#3).rem.toNat + 1 % 1000 > 1000 ∧
    ¬ ((ready defaultConfig 0#8 0#32 0#32 1000#11).ctxOf 2#3).rem.toNat + 2000 % 1000 > 1000 := by decide

/-- The four styles and both directions. -/
theorem witness_PacingLosesNoTime :
    (at2 63#32).cfg.coilMap? 2#3 = some ⟨2#3, 5, 0, 7, 6⟩ ∧ ((at2 63#32).ctxOf 2#3).valid = true ∧
    directionOf 1#3 = some .forward ∧ directionOf 2#3 = some .backward ∧ styleOf 1#3 = some .single ∧
    styleOf 2#3 = some .double ∧ styleOf 3#3 = some .interleave ∧ styleOf 4#3 = some .microstep ∧
    (at2 63#32).posOf 2#3 < 4 * (at2 63#32).cfg.M := by decide

/-- The last offset of a half quadrant, and of a quadrant. -/
theorem witness_EnableSetsAreTheTables :
    7 < defaultConfig.H ∧ Style.interleave ≠ .microstep ∧ 15 < defaultConfig.M := by decide

theorem witness_EnableBitsStayInTheirPort :
    defaultConfig.Legal ∧ defaultConfig.coilMap? 1#3 = some ⟨1#3, 2, 1, 3, 4⟩ ∧
    defaultConfig.coilMap? 2#3 = some ⟨2#3, 5, 0, 7, 6⟩ ∧ (2#3 : Code) ≠ 1#3 := by decide

/-- A position at each of the four boundaries. -/
theorem witness_DutyIsExtremeOnlyAtQuadrantBoundaries :
    defaultConfig.Legal ∧ 0 < 4 * defaultConfig.M ∧ defaultConfig.M < 4 * defaultConfig.M ∧
    2 * defaultConfig.M < 4 * defaultConfig.M ∧ 3 * defaultConfig.M < 4 * defaultConfig.M := by decide

/-- The first and the last offset of an even and of an odd quadrant. -/
theorem witness_DutyReadsTheCurve :
    defaultConfig.Legal ∧ 0 < 4 ∧ 3 < 4 ∧ 0 < defaultConfig.M ∧ 15 < defaultConfig.M := by decide

theorem witness_DutyMovesToAdjacentEntries : 63 < 4 * defaultConfig.M := by decide

/-- The last position of the cycle, and the last of quadrant 0. -/
theorem witness_DutySwapsEveryQuarter : 63 < 4 * defaultConfig.M ∧ 15 < defaultConfig.M := by decide

theorem witness_StylesForceTheParityOfTheIndex : 63 < 4 * defaultConfig.M := by decide

theorem witness_MisalignmentPersists : Style.single ≠ .microstep := by decide

/-- A constructed port at reset time, so that the step has something to reset. -/
theorem witness_ResetGivesTheResetState :
    ({ at2 5#32 with host := [.reset, .reset] } : State).busy = false ∧
    ({ at2 5#32 with host := [.reset, .reset] } : State).host = .reset :: [.reset] ∧
    ((at2 5#32).ctxOf 2#3).valid = true := ⟨rfl, rfl, by decide⟩

theorem witness_ResetActionResetsTheBlock :
    ({ at2 5#32 with host := [.reset] } : State).busy = false ∧
    ({ at2 5#32 with host := [.reset] } : State).host = .reset :: [] := ⟨rfl, rfl⟩

/-- Both sides of the last clause's bound. -/
theorem witness_ResetDuringACommandKeepsItsFirstEvents :
    ({ at2 0#32 with host := [.commandThenReset 0x60000000FF00#48 26] } : State).busy = false ∧
    ({ at2 0#32 with host := [.commandThenReset 0x60000000FF00#48 26] } : State).host =
      .commandThenReset 0x60000000FF00#48 26 :: [] ∧ 26 < 27 ∧ ¬ 27 < 27 := ⟨rfl, rfl, by decide, by decide⟩

theorem witness_ResetIsAGoodState : defaultConfig.Legal := by decide

/-- A constructed port in the middle of its cycle, with a speed that SETSPEED gives (60 rpm) and a remainder. -/
theorem witness_EveryStepKeepsTheRegistersLegal :
    (ready defaultConfig 0#8 37#32 5000#32 1000#11).RegistersOk ∧
    ∃ t, step (ready defaultConfig 0#8 37#32 5000#32 1000#11) = .next t := by
  refine ⟨⟨by decide, rfl, by decide, fun p => ?_, by decide, by decide, by decide⟩, _, rfl⟩
  by_cases h : p = 2#3
  · subst h
    exact .inr ⟨60#32, by decide, by decide⟩
  · refine .inl ?_
    rw [ready, State.ctxOf_setCtx_other _ h]
    simp [idle, State.ctxOf, State.resetWith, Vector.get_eq_getElem, Ctx.reset]

/-- Both clauses: a block that has transmitted nothing, and one that has transmitted 0x21. -/
theorem witness_EveryStepKeepsTheLinesAtTheLatchWord :
    ((idle defaultConfig).LinesOk ∧ ¬ (idle defaultConfig).Transmitted) ∧
    ∃ s : State, s.LinesOk ∧ s.Transmitted ∧ ∃ t, step s = .next t := by
  have hn : ¬ (idle defaultConfig).Transmitted := fun ⟨pin, level, h⟩ => by simp [idle, State.resetWith] at h
  refine ⟨⟨⟨fun _ => ⟨rfl, rfl⟩, fun h => absurd h hn⟩, hn⟩, ?_⟩
  have ht : State.Transmitted ({ idle defaultConfig with
      latch := 0x21#8, out := [.w .serLatch true], env := { env0 with sr := 0x21#8, q := 0x21#8 },
      pins := { serLatch := true, serData := true, serClk := true } } : State) := ⟨.serLatch, true, by simp⟩
  exact ⟨_, ⟨fun h => absurd ht h, fun _ => ⟨by decide, rfl, rfl⟩⟩, ht, _, rfl⟩

/-- Both clauses: a channel never programmed, and one programmed. -/
theorem witness_EveryStepKeepsTheDutyCopies :
    ∃ s : State, s.DutiesOk ∧ (∀ v, .pwmSet 1#3 .A v ∉ s.out) ∧ .pwmSet 2#3 .A 0#8 ∈ s.out ∧
      ∃ t, step s = .next t := by
  refine ⟨{ idle defaultConfig with out := [.pwmSet 2#3 .A 0#8] }, ⟨fun p chan _ => ?_, fun p chan v h => ?_⟩,
    fun v h => ?_, by simp, _, rfl⟩
  · cases chan <;> revert p <;> decide
  · obtain ⟨rfl, rfl, rfl⟩ : p = 2#3 ∧ chan = .A ∧ v = 0#8 := by simpa using h
    decide
  · simp at h

/-- A command that runs on a port, with the coil map of the port and of another port of a legal map. -/
theorem witness_PortCommandsTouchOnlyTheirPort :
    portOf? (.onestep 2#3 1#3 1#3) = some 2#3 ∧ (∃ t, exec (.onestep 2#3 1#3 1#3) (at2 0#32) = .next t) ∧
    (at2 0#32).cfg.coilMap? 2#3 = some ⟨2#3, 5, 0, 7, 6⟩ ∧ (at2 0#32).cfg.coilMap? 3#3 = none ∧
    (at2 0#32).cfg.Legal ∧ (1#3 : Code) ≠ 2#3 ∧ (at2 0#32).cfg.coilMap? 1#3 = some ⟨1#3, 2, 1, 3, 4⟩ :=
  ⟨rfl, ⟨_, rfl⟩, by decide, by decide, by decide, by decide, by decide⟩

/-- Two states with different speeds and remainders. -/
theorem witness_PacingNeverReachesTheMotor :
    (ready defaultConfig 0#8 5#32 5000#32 7#11).SameButPacing (ready defaultConfig 0#8 5#32 300#32 900#11) ∧
    (∃ t, exec (.step 2#3 1#3 1#3 1#32) (ready defaultConfig 0#8 5#32 5000#32 7#11) = .next t) ∧
    ∃ t, exec (.step 2#3 1#3 1#3 1#32) (ready defaultConfig 0#8 5#32 300#32 900#11) = .next t := by
  refine ⟨⟨rfl, fun p => ?_, rfl, rfl, rfl, rfl, rfl, rfl, rfl⟩, ⟨_, rfl⟩, _, rfl⟩
  by_cases h : p = 2#3
  · subst h
    simp [ready, Ctx.SameButPacing]
  · simp only [ready, State.ctxOf_setCtx_other _ h]
    simp [Ctx.SameButPacing]

end Sys2Proof.Tests
end

section
/-! Rules R14, R20: `OUT` is only ever appended to. Putting a list of earlier events before the trace commutes with
every operation of the block, so with every command. -/

namespace Sys2Proof.Machine

/-- The state whose trace has the earlier events `pre` before its own. -/
def State.prefixTrace (s : State) (pre : List Event) : State := { s with out := pre ++ s.out }

section
variable (s : State) (pre : List Event)

/-! What the block reads of a state does not see its trace. -/

@[simp] theorem State.prefixTrace_latch : (s.prefixTrace pre).latch = s.latch := rfl
@[simp] theorem State.prefixTrace_cfg : (s.prefixTrace pre).cfg = s.cfg := rfl
@[simp] theorem State.prefixTrace_ctxOf (p : Code) : (s.prefixTrace pre).ctxOf p = s.ctxOf p := rfl
@[simp] theorem State.prefixTrace_posOf (p : Code) : (s.prefixTrace pre).posOf p = s.posOf p := rfl

@[simp] theorem State.prefixTrace_nextPos (p : Code) (dir : Direction) (style : Style) :
    (s.prefixTrace pre).nextPos p dir style = s.nextPos p dir style := rfl

@[simp] theorem State.prefixTrace_checkPort (p : Code) : (s.prefixTrace pre).checkPort p = s.checkPort p := rfl

@[simp] theorem State.prefixTrace_checkConstructed (p : Code) :
    (s.prefixTrace pre).checkConstructed p = s.checkConstructed p := rfl

@[simp] theorem State.prefixTrace_checkMotion (p dir style : Code) :
    (s.prefixTrace pre).checkMotion p dir style = s.checkMotion p dir style := rfl

/-! The operations that emit nothing leave the trace as it is. -/

@[simp] theorem State.prefixTrace_setCtx (p : Code) (x : Ctx) :
    (s.prefixTrace pre).setCtx p x = (s.setCtx p x).prefixTrace pre := rfl

@[simp] theorem State.prefixTrace_setPos (p : Code) (pos : Nat) :
    (s.prefixTrace pre).setPos p pos = (s.setPos p pos).prefixTrace pre := rfl

@[simp] theorem State.prefixTrace_setRem (p : Code) (r : Nat) :
    (s.prefixTrace pre).setRem p r = (s.setRem p r).prefixTrace pre := rfl

@[simp] theorem State.prefixTrace_updateLatch (mask value : Byte) :
    (s.prefixTrace pre).updateLatch mask value = (s.updateLatch mask value).prefixTrace pre := rfl

@[simp] theorem State.prefixTrace_enableCoils (e : PortEntry) (coils : List Coil) :
    (s.prefixTrace pre).enableCoils e coils = (s.enableCoils e coils).prefixTrace pre := rfl

@[simp] theorem State.prefixTrace_disableCoils (e : PortEntry) :
    (s.prefixTrace pre).disableCoils e = (s.disableCoils e).prefixTrace pre := rfl

@[simp] theorem State.prefixTrace_respond (v : Word) :
    (s.prefixTrace pre).respond v = (s.respond v).prefixTrace pre := rfl

@[simp] theorem State.prefixTrace_raise (err : CmdError) :
    (s.prefixTrace pre).raise err = (s.raise err).prefixTrace pre := rfl

/-! The operations that emit append at the other end of the trace. -/

@[simp] theorem State.prefixTrace_emit (e : Event) :
    (s.prefixTrace pre).emit e = (s.emit e).prefixTrace pre := by
  simp [State.prefixTrace, State.emit]

@[simp] theorem State.prefixTrace_emitAll (es : List Event) :
    (s.prefixTrace pre).emitAll es = (s.emitAll es).prefixTrace pre := by
  induction es generalizing s with
  | nil => rfl
  | cons e es ih => simp [ih]

@[simp] theorem State.prefixTrace_transmit : (s.prefixTrace pre).transmit = s.transmit.prefixTrace pre := by
  simp [State.transmit]

@[simp] theorem State.prefixTrace_programDuty (p : Code) (chan : Channel) (v : Byte) :
    (s.prefixTrace pre).programDuty p chan v = (s.programDuty p chan v).prefixTrace pre := by
  simp [State.programDuty]

@[simp] theorem State.prefixTrace_delay (ms : Nat) :
    (s.prefixTrace pre).delay ms = (s.delay ms).prefixTrace pre := by
  simp [State.delay]

@[simp] theorem State.prefixTrace_pace (p : Code) (us : Nat) :
    (s.prefixTrace pre).pace p us = (s.pace p us).prefixTrace pre := by
  simp only [State.pace, prefixTrace_ctxOf, prefixTrace_delay, prefixTrace_setRem]
  by_cases hc : (s.ctxOf p).rem.toNat + us % 1000 > 1000
  · simp only [if_pos hc]
  · simp only [if_neg hc]

@[simp] theorem State.prefixTrace_oneStepCore (p : Code) (e : PortEntry) (dir : Direction) (style : Style) :
    (s.prefixTrace pre).oneStepCore p e dir style = (s.oneStepCore p e dir style).prefixTrace pre := by
  simp [State.oneStepCore]

@[simp] theorem State.prefixTrace_pacedStep (p : Code) (e : PortEntry) (dir : Direction) (style : Style) (us : Nat) :
    (s.prefixTrace pre).pacedStep p e dir style us = (s.pacedStep p e dir style us).prefixTrace pre := by
  simp [State.pacedStep]

@[simp] theorem State.prefixTrace_mainLoop (p : Code) (e : PortEntry) (dir : Direction) (style : Style) (us n : Nat) :
    State.mainLoop p e dir style us n (s.prefixTrace pre) =
      (State.mainLoop p e dir style us n s).prefixTrace pre := by
  induction n generalizing s with
  | zero => rfl
  | succ n ih => simp [ih]

@[simp] theorem State.prefixTrace_tailLoop (p : Code) (e : PortEntry) (dir : Direction) (us n : Nat) :
    State.tailLoop p e dir us n (s.prefixTrace pre) = (State.tailLoop p e dir us n s).prefixTrace pre := by
  induction n generalizing s with
  | zero => rfl
  | succ n ih =>
    simp only [State.tailLoop, prefixTrace_posOf, prefixTrace_cfg, prefixTrace_pacedStep, ih]
    split <;> rfl

end

/-! The commands. -/

/-- A command that answers a next state and appends the same events to any trace. -/
def IgnoresTrace (command : State → Host.Outcome State Fault Refusal) : Prop :=
  ∀ s : State, ∃ t : State, ∀ pre, command (s.prefixTrace pre) = .next (t.prefixTrace pre)

theorem execNew_ignoresTrace (p : Code) (spr : Word) : IgnoresTrace (execNew p spr) := fun s => by
  cases hc : s.checkPort p with
  | error err => exact ⟨s.raise err, fun pre => by simp [execNew, hc]⟩
  | ok e =>
    exact ⟨(s.setCtx p { s.ctxOf p with valid := true, spr := spr, pos := 0#32, usps := 0#32, rem := 0#11 }).respond
      0#32, fun pre => by simp [execNew, hc]⟩

theorem execSetspeed_ignoresTrace (p : Code) (rpm : Word) : IgnoresTrace (execSetspeed p rpm) := fun s => by
  cases hc : s.checkConstructed p with
  | error err => exact ⟨s.raise err, fun pre => by simp [execSetspeed, hc]⟩
  | ok e =>
    by_cases hd : (s.ctxOf p).spr.toNat * rpm.toNat = 0
    · exact ⟨s.raise .divByZero, fun pre => by
        simp only [execSetspeed, State.prefixTrace_checkConstructed, hc]
        exact if_pos hd⟩
    · exact ⟨(s.setCtx p { s.ctxOf p with
        usps := BitVec.ofNat 32 (60000000 / ((s.ctxOf p).spr.toNat * rpm.toNat)), rem := 0#11 }).respond 0#32,
        fun pre => by
          simp only [execSetspeed, State.prefixTrace_checkConstructed, hc]
          exact if_neg hd⟩

theorem execOnestep_ignoresTrace (p dir style : Code) : IgnoresTrace (execOnestep p dir style) := fun s => by
  cases hc : s.checkMotion p dir style with
  | error err => exact ⟨s.raise err, fun pre => by simp [execOnestep, hc]⟩
  | ok r =>
    obtain ⟨e, d, st⟩ := r
    exact ⟨(s.oneStepCore p e d st).respond (BitVec.ofNat 32 (s.nextPos p d st)), fun pre => by
      simp [execOnestep, hc]⟩

theorem execStep_ignoresTrace (p dir style : Code) (count : Word) : IgnoresTrace (execStep p dir style count) :=
  fun s => by
  cases hc : s.checkMotion p dir style with
  | error err => exact ⟨s.raise err, fun pre => by simp [execStep, hc]⟩
  | ok r =>
    obtain ⟨e, d, st⟩ := r
    obtain ⟨he, hv, hd, hs⟩ := s.checkMotion_ok p hc
    refine ⟨(State.tailLoop p e d (stepDelay s.cfg st (s.ctxOf p).usps.toNat)
      (if st = .microstep then s.cfg.cycle else 0)
      (State.mainLoop p e d st (stepDelay s.cfg st (s.ctxOf p).usps.toNat)
        (stepCount s.cfg st count.toNat) s)).respond 0#32, fun pre => ?_⟩
    rw [execStep_of (s.prefixTrace pre) he hv hd hs]
    simp

theorem execRelease_ignoresTrace (p : Code) : IgnoresTrace (execRelease p) := fun s => by
  cases hc : s.checkConstructed p with
  | error err => exact ⟨s.raise err, fun pre => by simp [execRelease, hc]⟩
  | ok e =>
    exact ⟨((((s.disableCoils e).transmit).programDuty p .A 0#8).programDuty p .B 0#8).respond 0#32, fun pre => by
      simp [execRelease, hc]⟩

theorem execLatchw_ignoresTrace (mask value : Byte) : IgnoresTrace (execLatchw mask value) := fun s =>
  ⟨((s.updateLatch mask value).transmit).respond 0#32, fun pre => by simp [execLatchw]⟩

/-- No command reads `OUT` (rules R14, R20). -/
theorem exec_ignoresTrace (i : Instr) : IgnoresTrace (exec i) := by
  cases i with
  | new port spr => exact execNew_ignoresTrace port spr
  | setspeed port rpm => exact execSetspeed_ignoresTrace port rpm
  | onestep port dir style => exact execOnestep_ignoresTrace port dir style
  | step port dir style count => exact execStep_ignoresTrace port dir style count
  | release port => exact execRelease_ignoresTrace port
  | latchw mask value => exact execLatchw_ignoresTrace mask value

/-- A state with any trace is the one with the empty trace, those events put before it. -/
theorem State.with_out_eq_prefixTrace (s : State) (o : List Event) :
    { s with out := o } = ({ s with out := [] } : State).prefixTrace o := by
  simp [State.prefixTrace]

/-- Settles O46: the command's events are those it emits from the empty trace, and any other trace stands before
them, carried along by every operation. -/
theorem theTraceIsNeverRead : Obligations.TheTraceIsNeverRead := by
  intro s i
  obtain ⟨t, ht⟩ := exec_ignoresTrace i { s with out := [] }
  refine ⟨t, t.out, fun o => ?_⟩
  rw [State.with_out_eq_prefixTrace s o]
  exact ht o

end Sys2Proof.Machine
end

section
/-! What a command and a step can do, said once. A command is a sequence of sub-operations on the registers and the
outputs, then its answer on the command port; a step waits, runs such a sequence, or resets the block. Every invariant
of the block then needs one small case per sub-operation. -/

namespace Sys2Proof.Machine

/-- Port `p` is in `PORTS` with coil map `e`, and NEW has constructed its context: what the commands that drive a port
check first (rules R216, R217). -/
structure State.Constructed (s : State) (p : Code) (e : PortEntry) : Prop where
  listed : s.cfg.coilMap? p = some e
  valid : (s.ctxOf p).valid = true

/-- The sub-operations commands are made of, for commands that name the port `port` (none for LATCHW). A change of the
latch word and its transmission are one sub-operation, because no command leaves a word untransmitted (rule R22). -/
inductive SubOp : Option Code → State → State → Prop
  /-- The context NEW writes (rule R186). -/
  | construct {s : State} {p : Code} {e : PortEntry} (he : s.cfg.coilMap? p = some e) (spr : Word) :
      SubOp (some p) s (s.setCtx p
        { s.ctxOf p with valid := true, spr := spr, pos := 0#32, usps := 0#32, rem := 0#11 })
  /-- The quotient SETSPEED stores (rule R189). -/
  | setSpeed {s : State} {p : Code} {e : PortEntry} (hc : s.Constructed p e) {rpm : Word}
      (hd : (s.ctxOf p).spr.toNat * rpm.toNat ≠ 0) :
      SubOp (some p) s (s.setCtx p
        { s.ctxOf p with
          usps := BitVec.ofNat 32 (60000000 / ((s.ctxOf p).spr.toNat * rpm.toNat)), rem := 0#11 })
  /-- The position moves within the cycle (rule R164). -/
  | move {s : State} {p : Code} {e : PortEntry} (hc : s.Constructed p e) {pos : Nat} (hpos : pos < s.cfg.cycle) :
      SubOp (some p) s (s.setPos p pos)
  /-- The port's enable bits are replaced and sent (rule R168). -/
  | sendEnables {s : State} {p : Code} {e : PortEntry} (hc : s.Constructed p e) (coils : List Coil) :
      SubOp (some p) s (s.enableCoils e coils).transmit
  /-- The port's enable bits are cleared and sent (rule R175). -/
  | sendRelease {s : State} {p : Code} {e : PortEntry} (hc : s.Constructed p e) :
      SubOp (some p) s (s.disableCoils e).transmit
  /-- A duty is programmed (rules R31, R58). -/
  | programDuty {s : State} {p : Code} {e : PortEntry} (hc : s.Constructed p e) (chan : Channel) (v : Byte) :
      SubOp (some p) s (s.programDuty p chan v)
  /-- One PACE (rule R199). -/
  | pace {s : State} {p : Code} {e : PortEntry} (hc : s.Constructed p e) (us : Nat) :
      SubOp (some p) s (s.pace p us)
  /-- The masked latch write of LATCHW, sent (rule R118). -/
  | sendMasked (s : State) (mask value : Byte) : SubOp none s (s.updateLatch mask value).transmit

/-- Sub-operations one after another. -/
abbrev SubOps (port : Option Code) : State → State → Prop := Relation.ReflTransGen (SubOp port)

variable {s t u v : State} {port : Option Code} {p : Code} {e : PortEntry}

theorem SubOp.single (h : SubOp port u v) : SubOps port u v := Relation.ReflTransGen.single h

/-- The parameters are written by nothing (rule R8). -/
theorem SubOp.cfg_eq (h : SubOp port u v) : v.cfg = u.cfg := by
  cases h <;> simp

/-- A context stays constructed: only reset clears `VALID` (rules R23, R35). -/
theorem SubOp.keeps_valid (h : SubOp port u v) (p : Code) (hv : (u.ctxOf p).valid = true) :
    (v.ctxOf p).valid = true := by
  cases h with
  | sendEnables | sendRelease | sendMasked => simpa using hv
  | construct => rw [State.ctxOf_setCtx]; split <;> simp [hv]
  | setSpeed hc => rw [State.ctxOf_setCtx]; split <;> simp [hv, hc.valid]
  | move hc => rw [State.setPos_ctxOf]; split <;> simp [hv, hc.valid]
  | pace hc => rw [State.pace_ctxOf]; split <;> simp [hv, hc.valid]
  | programDuty hc chan =>
    rw [State.programDuty_ctxOf]
    split
    · cases chan <;> simp [hc.valid]
    · exact hv

theorem SubOp.keeps_constructed (h : SubOp port u v) (hc : u.Constructed p e) : v.Constructed p e :=
  ⟨by rw [h.cfg_eq]; exact hc.listed, h.keeps_valid p hc.valid⟩

/-- What holds before a sequence of sub-operations and is kept by each holds after it. -/
theorem SubOps.keeps {P : State → Prop} (hop : ∀ {u v : State}, SubOp port u v → P u → P v)
    (h : SubOps port s t) (hs : P s) : P t := by
  induction h with
  | refl => exact hs
  | tail _ hstep ih => exact hop hstep ih

theorem SubOps.keeps_constructed (h : SubOps port s t) (hc : s.Constructed p e) : t.Constructed p e :=
  h.keeps (fun hop => hop.keeps_constructed) hc

/-! The shared operations as sequences of sub-operations. -/

/-- One step of the state machine: move, send the enable bits, program A, program B (rules R169, R170). -/
theorem State.Constructed.subOps_oneStepCore (hc : s.Constructed p e) (dir : Direction) (style : Style) :
    SubOps (some p) s (s.oneStepCore p e dir style) := by
  have hmove := SubOp.move hc (s.nextPos_lt p dir style)
  have hsend := SubOp.sendEnables (hmove.keeps_constructed hc) (enables s.cfg style (s.nextPos p dir style))
  have hcSent := hsend.keeps_constructed (hmove.keeps_constructed hc)
  have hdutyA := SubOp.programDuty hcSent .A (duty s.cfg (s.nextPos p dir style)).1
  have hdutyB := SubOp.programDuty (hdutyA.keeps_constructed hcSent) .B (duty s.cfg (s.nextPos p dir style)).2
  exact ((hmove.single.tail hsend).tail hdutyA).tail hdutyB

/-- RELEASE: send the cleared bits, program A, program B (rule R175). -/
theorem State.Constructed.subOps_release (hc : s.Constructed p e) :
    SubOps (some p) s ((((s.disableCoils e).transmit).programDuty p .A 0#8).programDuty p .B 0#8) := by
  have hsend := SubOp.sendRelease hc
  have hcSent := hsend.keeps_constructed hc
  have hdutyA := SubOp.programDuty hcSent .A 0#8
  have hdutyB := SubOp.programDuty (hdutyA.keeps_constructed hcSent) .B 0#8
  exact (hsend.single.tail hdutyA).tail hdutyB

/-- One iteration of STEP: one step, then PACE (rule R196). -/
theorem State.Constructed.subOps_pacedStep (hc : s.Constructed p e) (dir : Direction) (style : Style) (us : Nat) :
    SubOps (some p) s (s.pacedStep p e dir style us) :=
  have hstep := hc.subOps_oneStepCore dir style
  hstep.tail (SubOp.pace (hstep.keeps_constructed hc) us)

/-- STEP's two loops (rules R196, R197). -/
theorem State.Constructed.subOps_loops (hc : s.Constructed p e) (dir : Direction) (style : Style) (us n m : Nat) :
    SubOps (some p) s (State.tailLoop p e dir us m (State.mainLoop p e dir style us n s)) :=
  State.loops_induct s p e dir style us (P := fun u => SubOps (some p) s u)
    (fun _ st hu => hu.trans ((hu.keeps_constructed hc).subOps_pacedStep dir st us)) n m .refl

/-! The commands. -/

/-- `t` is `s` after some sub-operations of the port and an answer, the end of every command (rules R98, R214). -/
def Answered (port : Option Code) (s t : State) : Prop :=
  ∃ u r, SubOps port s u ∧ t = { u with rsp := some r, busy := false }

/-- A refused command does nothing before its answer (rule R214). -/
theorem answered_raise (s : State) (err : CmdError) : Answered port s (s.raise err) :=
  ⟨s, errorResponse err, .refl, rfl⟩

theorem SubOps.answered_respond (h : SubOps port s u) (w : Word) : Answered port s (u.respond w) :=
  ⟨u, okResponse w, h, rfl⟩

/-- Every command is sub-operations of the port it names, then an answer. -/
theorem exec_answered {i : Instr} (h : exec i s = .next t) : Answered (portOf? i) s t := by
  cases i with
  | new p spr =>
    rcases execNew_cases s p spr with ⟨err, hx⟩ | ⟨e, he, hx⟩ <;> cases hx.symm.trans h
    · exact answered_raise s err
    · exact (SubOp.construct he spr).single.answered_respond _
  | setspeed p rpm =>
    rcases execSetspeed_cases s p rpm with ⟨err, hx⟩ | ⟨e, he, hv, hd, hx⟩ <;> cases hx.symm.trans h
    · exact answered_raise s err
    · exact (SubOp.setSpeed ⟨he, hv⟩ hd).single.answered_respond _
  | onestep p dir style =>
    rcases execOnestep_cases s p dir style with ⟨err, hx⟩ | ⟨e, d, st, he, hv, _, _, hx⟩ <;> cases hx.symm.trans h
    · exact answered_raise s err
    · exact (State.Constructed.subOps_oneStepCore ⟨he, hv⟩ d st).answered_respond _
  | step p dir style count =>
    rcases execStep_cases s p dir style count with ⟨err, hx⟩ | ⟨e, d, st, he, hv, _, _, hx⟩ <;>
      cases hx.symm.trans h
    · exact answered_raise s err
    · exact (State.Constructed.subOps_loops ⟨he, hv⟩ d st _ _ _).answered_respond _
  | release p =>
    rcases execRelease_cases s p with ⟨err, hx⟩ | ⟨e, he, hv, hx⟩ <;> cases hx.symm.trans h
    · exact answered_raise s err
    · exact (State.Constructed.subOps_release ⟨he, hv⟩).answered_respond _
  | latchw mask value =>
    cases h
    exact (SubOp.sendMasked s mask value).single.answered_respond _

/-- So does every command word, an illegal one included (rules R88, R215). -/
theorem runWord_answered {w : Command} (h : s.runWord w = .next t) : ∃ port, Answered port s t := by
  unfold State.runWord at h
  split at h
  · next i _ => exact ⟨portOf? i, exec_answered h⟩
  · cases h
    exact ⟨none, answered_raise s .badEncoding⟩

/-! The step. -/

/-- What a step can do: wait, run an accepted word to its answer, or reset the block, at once or after some events of
a word (rules R98, R235 to R237). -/
theorem step_cases (h : step s = .next t) :
    t = s ∨ (∃ rest port, Answered port (s.accept rest) t) ∨
    ∃ env rest, t = { State.resetWith s.cfg with env := env, host := rest } := by
  unfold step State.advance at h
  split at h
  · cases h
    exact .inl rfl
  · split at h
    · cases h
      exact .inl rfl
    · next w rest _ => exact .inr (.inl ⟨rest, runWord_answered h⟩)
    · next rest _ =>
      cases h
      exact .inr (.inr ⟨s.env, rest, rfl⟩)
    · next w k rest _ =>
      unfold State.cutShort at h
      split at h <;> cases h
      exact .inr (.inr ⟨_, rest, by rw [State.blockReset, State.emitAll_cfg, State.emitAll_host]; rfl⟩)

/-- What the command port does not touch, every sub-operation keeps and reset restores, every step keeps. -/
theorem step_keeps {P : State → Prop}
    (hport : ∀ (u : State) busy rsp host, P u → P { u with busy := busy, rsp := rsp, host := host })
    (hop : ∀ {port : Option Code} {u v : State}, SubOp port u v → P u → P v)
    (hreset : ∀ (u : State) env host, P u → P { State.resetWith u.cfg with env := env, host := host })
    (h : step s = .next t) (hs : P s) : P t := by
  rcases step_cases h with rfl | ⟨rest, port, u, r, hops, rfl⟩ | ⟨env, rest, rfl⟩
  · exact hs
  · exact hport u _ _ _ (hops.keeps hop (hport s _ _ _ hs))
  · exact hreset s _ _ hs

/-- An idle block is idle again after every step: a command runs to its answer within it (rule R98). -/
theorem step_idle (h : step s = .next t) (hs : s.busy = false) : t.busy = false := by
  rcases step_cases h with rfl | ⟨_, _, _, _, _, rfl⟩ | ⟨_, _, rfl⟩
  · exact hs
  · rfl
  · rfl

end Sys2Proof.Machine
end

section
/-! Rules R23, R24, R26, R27, R200, R217: the legal values of the registers, kept by every step. -/

namespace Sys2Proof.Machine

variable {s t u v : State} {port : Option Code} {p : Code}

/-- The legal values of one port's context: what `State.RegistersOk` asks of each port. -/
structure Ctx.InRange (c : Config) (p : Code) (x : Ctx) : Prop where
  pos : x.pos.toNat < c.cycle
  speed : x.usps = 0#32 ∨ ∃ rpm : Word, x.spr.toNat * rpm.toNat ≠ 0 ∧
    x.usps.toNat = 60000000 / (x.spr.toNat * rpm.toNat)
  rem : x.rem.toNat ≤ 1000
  port : x.valid = true → c.hasPort p = true
  fresh : x.valid = false → x = Ctx.reset

/-- Legal parameters and every context in range: `State.RegistersOk` but for `BUSY`, so that it also speaks of the
states inside a command. -/
structure State.ContextsInRange (s : State) : Prop where
  legal : s.cfg.Legal
  ctx : ∀ p, (s.ctxOf p).InRange s.cfg p

theorem State.registersOk_iff (s : State) : s.RegistersOk ↔ s.ContextsInRange ∧ s.busy = false :=
  ⟨fun ⟨legal, idle, pos, speed, rem, ports, fresh⟩ =>
      ⟨⟨legal, fun p => ⟨pos p, speed p, rem p, ports p, fresh p⟩⟩, idle⟩,
    fun ⟨⟨legal, ctx⟩, idle⟩ =>
      ⟨legal, idle, fun p => (ctx p).pos, fun p => (ctx p).speed, fun p => (ctx p).rem, fun p => (ctx p).port,
        fun p => (ctx p).fresh⟩⟩

/-- PACE keeps a remainder of at most 1000 (rule R200). -/
theorem paceRem_le {r : Nat} (hr : r ≤ 1000) (us : Nat) : paceRem r us ≤ 1000 := by
  unfold paceRem
  split <;> omega

/-- The quotient of SETSPEED fits its register (rule R190). -/
theorem toNat_quotient (d : Nat) : (BitVec.ofNat 32 (60000000 / d)).toNat = 60000000 / d := by
  rw [BitVec.toNat_ofNat]
  exact Nat.mod_eq_of_lt ((Nat.div_le_self 60000000 d).trans_lt (by decide))

theorem Ctx.inRange_reset (c : Config) (p : Code) : Ctx.reset.InRange c p where
  pos := c.cycle_pos
  speed := .inl rfl
  rem := Nat.zero_le _
  port := nofun
  fresh _ := rfl

/-- A write of one context keeps all in range when the context written is in range. -/
theorem State.ContextsInRange.of_write (hs : s.ContextsInRange) (hcfg : t.cfg = s.cfg) {x : Ctx}
    (hctx : ∀ p', t.ctxOf p' = if p' = p then x else s.ctxOf p') (hx : x.InRange s.cfg p) :
    t.ContextsInRange where
  legal := hcfg ▸ hs.legal
  ctx p' := by
    rw [hcfg, hctx]
    split
    · next h => exact h ▸ hx
    · exact hs.ctx p'

theorem State.ContextsInRange.congr (hs : s.ContextsInRange) (hcfg : t.cfg = s.cfg) (hctx : ∀ p, t.ctxOf p = s.ctxOf p) :
    t.ContextsInRange where
  legal := hcfg ▸ hs.legal
  ctx p := by rw [hcfg, hctx]; exact hs.ctx p

/-- A context that is constructed after a write is not bound to the reset values. -/
theorem Ctx.fresh_of_valid {x y : Ctx} (h : x.valid = true) (hn : x.valid = false) : x = y :=
  absurd (h.symm.trans hn) (by decide)

/-- Every sub-operation keeps every context in range. -/
theorem SubOp.keeps_contextsInRange (h : SubOp port u v) (hu : u.ContextsInRange) : v.ContextsInRange := by
  have hcfg := h.cfg_eq
  cases h with
  | @construct _ p e he spr =>
    refine hu.of_write hcfg (u.ctxOf_setCtx p · _) ⟨u.cfg.cycle_pos, .inl rfl, Nat.zero_le _, fun _ => ?_, nofun⟩
    exact (u.cfg.hasPort_eq_true p).2 ⟨e, he⟩
  | @setSpeed _ p e hc rpm hd =>
    have hp := hu.ctx p
    exact hu.of_write hcfg (u.ctxOf_setCtx p · _)
      ⟨hp.pos, .inr ⟨rpm, hd, toNat_quotient _⟩, Nat.zero_le _, hp.port, Ctx.fresh_of_valid hc.valid⟩
  | @move _ p e hc pos hpos =>
    have hp := hu.ctx p
    refine hu.of_write hcfg (u.setPos_ctxOf p · _) ⟨?_, hp.speed, hp.rem, hp.port, Ctx.fresh_of_valid hc.valid⟩
    have := u.cfg.cycle_le
    rw [BitVec.toNat_ofNat]
    omega
  | @programDuty _ p e hc chan d =>
    have hp := hu.ctx p
    refine hu.of_write hcfg (u.programDuty_ctxOf p · _ _) ?_
    cases chan <;> exact ⟨hp.pos, hp.speed, hp.rem, hp.port, Ctx.fresh_of_valid hc.valid⟩
  | @pace _ p e hc us =>
    have hp := hu.ctx p
    refine hu.of_write hcfg (u.pace_ctxOf p us) ⟨hp.pos, hp.speed, ?_, hp.port, Ctx.fresh_of_valid hc.valid⟩
    have := paceRem_le hp.rem us
    rw [BitVec.toNat_ofNat]
    omega
  | sendEnables | sendRelease | sendMasked => exact hu.congr hcfg fun p => by simp

/-- The reset registers are legal whatever the environment and the host (rule R35). -/
theorem State.contextsInRange_reset {c : Config} (hc : c.Legal) (env : Env) (host : List HostAction) :
    State.ContextsInRange { State.resetWith c with env := env, host := host } where
  legal := hc
  ctx p := (congrArg (Ctx.InRange c p) (State.resetWith_ctxOf c p)).mpr (Ctx.inRange_reset c p)

/-- Settles O41: every sub-operation keeps every context in range, and a step ends idle. -/
theorem everyStepKeepsTheRegistersLegal : Obligations.EveryStepKeepsTheRegistersLegal := by
  intro s t hs hstep
  obtain ⟨hctx, hidle⟩ := s.registersOk_iff.1 hs
  refine t.registersOk_iff.2 ⟨?_, step_idle hstep hidle⟩
  exact step_keeps (P := State.ContextsInRange) (fun u _ _ _ hu => ⟨hu.legal, hu.ctx⟩)
    SubOp.keeps_contextsInRange (fun u env host hu => State.contextsInRange_reset hu.legal env host) hstep hctx

end Sys2Proof.Machine
end

section
/-! Rules R22, R32, R40, R62: the latch word, the pins and the receiver agree, kept by every step. -/

namespace Sys2Proof.Machine

variable {s t u v : State} {port : Option Code}

/-- The receiver's shadow register after the bits of `bits` have been shifted in, the first one first (rule R61). -/
def Env.shiftAll (env : Env) (bits : List Bool) : Env := bits.foldl Env.shiftIn env

/-- The bits of a word in the order TRANSMIT sends them, the most significant first (rules R111, R113). -/
def bitsSent (w : Byte) : List Bool := (List.range 8).map fun i => w.getLsbD (7 - i)

/-- Eight bits shifted in replace all of the shadow register: it holds the word sent, whatever it held before. -/
theorem Env.shiftAll_bitsSent_sr (env : Env) (w : Byte) : (env.shiftAll (bitsSent w)).sr = w := by
  have hbits : bitsSent w = [w.getLsbD 7, w.getLsbD 6, w.getLsbD 5, w.getLsbD 4, w.getLsbD 3, w.getLsbD 2,
    w.getLsbD 1, w.getLsbD 0] := rfl
  refine BitVec.eq_of_getLsbD_eq fun k hk => ?_
  rw [hbits]
  simp only [Env.shiftAll, List.foldl_cons, List.foldl_nil, Env.shiftIn_bit]
  interval_cases k <;> rfl

/-- The receiver after a TRANSMIT, whatever the pins were before: each clock pulse shifted one bit in, and the final
rising edge of SER_LATCH copied them to the output lines (rules R61, R62). -/
theorem State.transmit_env (s : State) : s.transmit.env = (s.env.shiftAll (bitsSent s.latch)).commit := by
  rw [State.transmit, transmitEvents_eq]
  rfl

theorem State.transmit_env_sr (s : State) : s.transmit.env.sr = s.latch := by
  rw [State.transmit_env, Env.commit_sr, Env.shiftAll_bitsSent_sr]

theorem State.transmit_env_q (s : State) : s.transmit.env.q = s.latch :=
  (congrArg Env.q s.transmit_env).trans (s.env.shiftAll_bitsSent_sr s.latch)

/-- A state with a TRANSMIT behind it has driven a pin. -/
theorem State.transmitted_transmit (s : State) : s.transmit.Transmitted :=
  ⟨.serLatch, false, by simp [transmitEvents]⟩

/-- After a TRANSMIT all lines agree with the latch word, whatever they were before. -/
theorem State.linesOk_transmit (s : State) : s.transmit.LinesOk where
  before h := absurd s.transmitted_transmit h
  after _ := ⟨by simp, by simpa using s.transmit_env_sr, by simpa using s.transmit_env_q⟩

/-- What drives no pin and writes neither the latch word nor the receiver keeps the lines in agreement. -/
theorem State.LinesOk.congr (hs : s.LinesOk) (hlatch : t.latch = s.latch) (hpins : t.pins = s.pins)
    (hsr : t.env.sr = s.env.sr) (hq : t.env.q = s.env.q)
    (hout : ∀ pin level, .w pin level ∈ t.out ↔ .w pin level ∈ s.out) : t.LinesOk := by
  have htrans : t.Transmitted ↔ s.Transmitted := by simp only [State.Transmitted, hout]
  constructor
  · rw [htrans, hlatch, hpins]
    exact hs.before
  · rw [htrans, hlatch, hpins, hsr, hq]
    exact hs.after

/-- The events of a PACE are delay requests (rule R199). -/
theorem paceEvents_delay (r us : Nat) : ∀ ev ∈ paceEvents r us, ∃ ms, ev = .delay ms := by
  unfold paceEvents
  split <;> simp

/-- Every sub-operation keeps the lines in agreement. -/
theorem SubOp.keeps_linesOk (h : SubOp port u v) (hu : u.LinesOk) : v.LinesOk := by
  cases h with
  | construct | setSpeed | move => exact hu.congr rfl rfl rfl rfl fun _ _ => Iff.rfl
  | programDuty => exact hu.congr rfl rfl rfl rfl fun _ _ => by simp
  | @pace _ p _ _ us =>
    refine hu.congr (by simp) (by simp) (by simp) (by simp) fun pin level => ?_
    have hno : Event.w pin level ∉ paceEvents (u.ctxOf p).rem.toNat us := fun hmem => by
      simpa using paceEvents_delay _ _ _ hmem
    simp [State.pace_out, hno]
  | sendEnables | sendRelease | sendMasked => exact State.linesOk_transmit _

/-- A block that was just reset has driven no pin, and its latch word and pins are low (rules R35, R40). -/
theorem State.linesOk_reset (c : Config) (env : Env) (host : List HostAction) :
    State.LinesOk { State.resetWith c with env := env, host := host } where
  before _ := ⟨rfl, rfl⟩
  after := fun ⟨_, _, h⟩ => absurd h List.not_mem_nil

/-- Settles O42: each TRANSMIT brings the lines into agreement anew, and nothing else touches them. -/
theorem everyStepKeepsTheLinesAtTheLatchWord : Obligations.EveryStepKeepsTheLinesAtTheLatchWord :=
  fun _ _ hs hstep => step_keeps (P := State.LinesOk) (fun _ _ _ _ hu => ⟨hu.before, hu.after⟩)
    SubOp.keeps_linesOk (fun _ env host _ => State.linesOk_reset _ env host) hstep hs

end Sys2Proof.Machine
end

section
/-! Rules R31, R40: the contexts' copies of the duties are the duties last sent, kept by every step. -/

namespace Sys2Proof.Machine

variable {s t u v : State} {port : Option Code} {p : Code}

/-- What writes no duty, neither a copy nor an output, and programs none keeps the copies at the outputs. -/
theorem State.DutiesOk.congr (hs : s.DutiesOk) (hocr : ∀ p chan, (t.ctxOf p).ocr chan = (s.ctxOf p).ocr chan)
    (hduty : ∀ p chan, t.env.duty p chan = s.env.duty p chan)
    (hout : ∀ p chan d, .pwmSet p chan d ∈ t.out ↔ .pwmSet p chan d ∈ s.out) : t.DutiesOk where
  before p chan := by simpa only [hout, hocr] using hs.before p chan
  after p chan d := by simpa only [hout, hocr, hduty] using hs.after p chan d

/-- A write of one context that leaves its two copies leaves every copy. -/
theorem ocr_of_write {x : Ctx} (hctx : ∀ p', t.ctxOf p' = if p' = p then x else s.ctxOf p')
    (hx : ∀ chan, x.ocr chan = (s.ctxOf p).ocr chan) (p' : Code) (chan : Channel) :
    (t.ctxOf p').ocr chan = (s.ctxOf p').ocr chan := by
  rw [hctx]
  split
  · next h => rw [hx, h]
  · rfl

theorem Ctx.ocr_setOcr (x : Ctx) (chan chan' : Channel) (d : Byte) :
    (x.setOcr chan d).ocr chan' = if chan' = chan then d else x.ocr chan' := by
  cases chan <;> cases chan' <;> rfl

/-- Programming a duty writes the copy of that channel and no other (rule R31). -/
theorem State.programDuty_ocr (s : State) (p p' : Code) (chan chan' : Channel) (d : Byte) :
    ((s.programDuty p chan d).ctxOf p').ocr chan' =
      if p' = p ∧ chan' = chan then d else (s.ctxOf p').ocr chan' := by
  rw [State.programDuty_ctxOf]
  by_cases hp : p' = p
  · subst hp
    simp [Ctx.ocr_setOcr]
  · simp [hp]

/-- Programming a duty writes the copy and the output alike (rules R31, R58). -/
theorem State.DutiesOk.programDuty (hs : s.DutiesOk) (p : Code) (chan : Channel) (d : Byte) :
    (s.programDuty p chan d).DutiesOk where
  before p' chan' hno := by
    have hne : ¬ (p' = p ∧ chan' = chan) := fun ⟨hp, hch⟩ => hno d (by simp [hp, hch])
    rw [State.programDuty_ocr, if_neg hne]
    exact hs.before p' chan' fun x hx => hno x (by simp [hx])
  after p' chan' x hx := by
    rw [State.programDuty_duty, State.programDuty_ocr]
    split
    · rfl
    · next hne =>
      refine hs.after p' chan' x ?_
      simp only [State.programDuty_out, List.mem_append, List.mem_singleton, Event.pwmSet.injEq] at hx
      exact hx.resolve_right fun ⟨hp, hch, _⟩ => hne ⟨hp, hch⟩

/-- A TRANSMIT drives pins only. -/
theorem pwmSet_notMem_transmitEvents (w : Byte) (p : Code) (chan : Channel) (d : Byte) :
    .pwmSet p chan d ∉ transmitEvents w := fun h => by
  simpa using transmitEvents_w w _ h

/-- A PACE requests delays only. -/
theorem pwmSet_notMem_paceEvents (r us : Nat) (p : Code) (chan : Channel) (d : Byte) :
    .pwmSet p chan d ∉ paceEvents r us := fun h => by
  simpa using paceEvents_delay r us _ h

/-- Sending a latch word keeps the copies at the outputs: it touches no context and no duty. -/
theorem State.DutiesOk.transmit (hs : s.DutiesOk) : s.transmit.DutiesOk :=
  hs.congr (fun _ _ => by simp) (fun _ _ => by simp) fun p chan d => by
    simp [pwmSet_notMem_transmitEvents]

/-- Every sub-operation keeps the copies at the outputs. -/
theorem SubOp.keeps_dutiesOk (h : SubOp port u v) (hu : u.DutiesOk) : v.DutiesOk := by
  cases h with
  | construct | setSpeed | move =>
    exact hu.congr (ocr_of_write (State.ctxOf_setCtx u _ · _) fun chan => by cases chan <;> rfl)
      (fun _ _ => rfl) fun _ _ _ => Iff.rfl
  | programDuty _ chan d => exact hu.programDuty _ chan d
  | @pace _ p _ _ us =>
    refine hu.congr (ocr_of_write (u.pace_ctxOf p us) fun chan => by cases chan <;> rfl)
      (fun _ _ => by rw [State.pace_env]) fun _ _ _ => ?_
    simp [State.pace_out, pwmSet_notMem_paceEvents]
  | sendEnables | sendRelease | sendMasked =>
    exact State.DutiesOk.transmit (hu.congr (fun _ _ => rfl) (fun _ _ => rfl) fun _ _ _ => Iff.rfl)

/-- A block that was just reset has programmed no duty, and its copies are 0 (rules R35, R40). -/
theorem State.dutiesOk_reset (c : Config) (env : Env) (host : List HostAction) :
    State.DutiesOk { State.resetWith c with env := env, host := host } where
  before p chan _ := (congrArg (Ctx.ocr · chan) (State.resetWith_ctxOf c p)).trans (by cases chan <;> rfl)
  after _ _ _ h := absurd h List.not_mem_nil

/-- Settles O43: a copy is written only together with its output, and nothing else touches either. -/
theorem everyStepKeepsTheDutyCopies : Obligations.EveryStepKeepsTheDutyCopies :=
  fun _ _ hs hstep => step_keeps (P := State.DutiesOk) (fun _ _ _ _ hu => ⟨hu.before, hu.after⟩)
    SubOp.keeps_dutiesOk (fun _ env host _ => State.dutiesOk_reset _ env host) hstep hs

end Sys2Proof.Machine
end

section
/-! Rules R22, R131, R172, R187, R201, R230: a command that names a port leaves the other ports alone. -/

namespace Sys2Proof

/-- The enable bits of a port are bits of its mask (rule R138), so that replacing the port's bits by them changes
nothing outside the mask. -/
theorem PortEntry.enBits_outside (e : PortEntry) (w : Byte) (coils : List Coil) :
    ((w &&& ~~~e.portMask) ||| e.enBits coils) &&& ~~~e.portMask = w &&& ~~~e.portMask := by
  refine BitVec.eq_of_getLsbD_eq fun k hk => ?_
  have hsub : (e.enBits coils).getLsbD k = true → e.portMask.getLsbD k = true := fun h => by
    obtain ⟨x, _, hx⟩ := (e.enBits_bit coils k).1 h
    exact e.portMask_bit x k hx
  cases hb : (e.enBits coils).getLsbD k
  · simp [hb]
  · simp [hsub hb]

/-- The masks of two ports of a legal map share no bit (rule R131 (b)). -/
theorem Config.Legal.masks_disjoint {c : Config} (hc : c.Legal) {p p' : Code} {e e' : PortEntry}
    (he : c.coilMap? p = some e) (he' : c.coilMap? p' = some e') (hne : p ≠ p') :
    e.portMask &&& e'.portMask = 0#8 := by
  obtain ⟨-, -, hpairs⟩ := hc
  obtain ⟨hmem, hid⟩ := Config.coilMap?_mem he
  obtain ⟨hmem', hid'⟩ := Config.coilMap?_mem he'
  have hsymm : Std.Symm fun f g : PortEntry => f.portMask &&& g.portMask = 0#8 :=
    ⟨fun f g h => by rw [BitVec.and_comm]; exact h⟩
  refine (hpairs.imp fun h => h.2).forall hmem hmem' fun h => hne ?_
  rw [← hid, ← hid', h]

namespace Machine

/-- Words equal outside a mask are equal on a mask disjoint from it. -/
theorem and_eq_of_outside {a b m n : Byte} (h : a &&& ~~~m = b &&& ~~~m) (hd : m &&& n = 0#8) : a &&& n = b &&& n := by
  refine BitVec.eq_of_getLsbD_eq fun k hk => ?_
  have hk1 := congrArg (BitVec.getLsbD · k) h
  have hk2 := congrArg (BitVec.getLsbD · k) hd
  simp only [BitVec.getLsbD_and, BitVec.getLsbD_not, hk, decide_true, Bool.true_and, BitVec.getLsbD_zero] at hk1 hk2 ⊢
  cases hm : m.getLsbD k
  · rw [show a.getLsbD k = b.getLsbD k by simpa [hm] using hk1]
  · simp [show n.getLsbD k = false by simpa [hm] using hk2]

variable {s t u v : State} {p : Code}

/-- What a command that names port `p` may have done: between the two states nothing of another port differs. -/
structure OnlyPort (p : Code) (s u : State) : Prop where
  cfg : u.cfg = s.cfg
  latch : ∀ e, s.cfg.coilMap? p = some e → u.latch &&& ~~~e.portMask = s.latch &&& ~~~e.portMask
  unlisted : s.cfg.coilMap? p = none → u.latch = s.latch
  ctx : ∀ p', p' ≠ p → u.ctxOf p' = s.ctxOf p'
  duty : ∀ p', p' ≠ p → ∀ chan, u.env.duty p' chan = s.env.duty p' chan
  out : ∃ es, u.out = s.out ++ es ∧ ∀ p' chan d, .pwmSet p' chan d ∈ es → p' = p

theorem OnlyPort.refl (p : Code) (s : State) : OnlyPort p s s where
  cfg := rfl
  latch _ _ := rfl
  unlisted _ := rfl
  ctx _ _ := rfl
  duty _ _ _ := rfl
  out := ⟨[], (List.append_nil _).symm, fun _ _ _ h => absurd h List.not_mem_nil⟩

theorem OnlyPort.trans (h : OnlyPort p s u) (k : OnlyPort p u v) : OnlyPort p s v where
  cfg := k.cfg.trans h.cfg
  latch e he := (k.latch e (by rw [h.cfg, he])).trans (h.latch e he)
  unlisted hn := (k.unlisted (by rw [h.cfg, hn])).trans (h.unlisted hn)
  ctx p' hp := (k.ctx p' hp).trans (h.ctx p' hp)
  duty p' hp chan := (k.duty p' hp chan).trans (h.duty p' hp chan)
  out := by
    obtain ⟨es, hes, hport⟩ := h.out
    obtain ⟨fs, hfs, hport'⟩ := k.out
    refine ⟨es ++ fs, by rw [hfs, hes, List.append_assoc], fun p' chan d hmem => ?_⟩
    exact (List.mem_append.1 hmem).elim (hport p' chan d) (hport' p' chan d)

/-- A write of the port's own context. -/
theorem OnlyPort.setCtx (p : Code) (s : State) (x : Ctx) : OnlyPort p s (s.setCtx p x) :=
  { OnlyPort.refl p s with ctx := fun _ hp => s.ctxOf_setCtx_other hp x }

/-- A duty of the port. -/
theorem OnlyPort.programDuty (p : Code) (s : State) (chan : Channel) (d : Byte) :
    OnlyPort p s (s.programDuty p chan d) where
  cfg := rfl
  latch _ _ := rfl
  unlisted _ := rfl
  ctx p' hp := by rw [State.programDuty_ctxOf, if_neg hp]
  duty p' hp chan' := by rw [State.programDuty_duty, if_neg fun h => hp h.1]
  out := ⟨[.pwmSet p chan d], rfl, fun p' chan' d' h => by
    obtain ⟨hp, -⟩ : p' = p ∧ chan' = chan ∧ d' = d := by simpa using h
    exact hp⟩

/-- A PACE of the port. -/
theorem OnlyPort.pace (p : Code) (s : State) (us : Nat) : OnlyPort p s (s.pace p us) where
  cfg := by simp
  latch := by simp
  unlisted := by simp
  ctx p' hp := by rw [State.pace_ctxOf, if_neg hp]
  duty := by simp
  out := ⟨_, s.pace_out p us, fun p' chan d h => absurd h (pwmSet_notMem_paceEvents _ _ p' chan d)⟩

/-- A latch word sent that differs in the bits of a listed port. -/
theorem OnlyPort.transmit {e : PortEntry} (he : s.cfg.coilMap? p = some e) {w : Byte}
    (hw : w &&& ~~~e.portMask = s.latch &&& ~~~e.portMask) :
    OnlyPort p s ({ s with latch := w } : State).transmit where
  cfg := by simp
  latch f hf := by
    obtain rfl : e = f := Option.some.inj (he.symm.trans hf)
    simpa using hw
  unlisted hn := absurd (he.symm.trans hn) nofun
  ctx _ _ := State.transmit_ctxOf _ _
  duty _ _ _ := State.transmit_duty _ _ _
  out := ⟨_, State.transmit_out _, fun p' chan d h => absurd h (pwmSet_notMem_transmitEvents _ p' chan d)⟩

/-- Every sub-operation of a port touches that port only. -/
theorem SubOp.onlyPort (h : SubOp (some p) u v) : OnlyPort p u v := by
  cases h with
  | construct | setSpeed | move => exact OnlyPort.setCtx p u _
  | programDuty _ chan d => exact OnlyPort.programDuty p u chan d
  | pace _ us => exact OnlyPort.pace p u us
  | @sendEnables _ _ e hc coils => exact OnlyPort.transmit hc.listed (e.enBits_outside u.latch coils)
  | @sendRelease _ _ e hc =>
    refine OnlyPort.transmit hc.listed ?_
    rw [BitVec.and_assoc, BitVec.and_self]

/-- A command that names a port touches that port only. -/
theorem exec_onlyPort {i : Instr} (hp : portOf? i = some p) (h : exec i s = .next t) : OnlyPort p s t := by
  obtain ⟨u, r, hops, rfl⟩ := exec_answered h
  rw [hp] at hops
  have hu : OnlyPort p s u := hops.keeps (fun hop hs => hs.trans hop.onlyPort) (OnlyPort.refl p s)
  exact ⟨hu.cfg, hu.latch, hu.unlisted, hu.ctx, hu.duty, hu.out⟩

/-- Settles O44: every sub-operation of the command touches its own port only, and the masks of a legal map are
disjoint. -/
theorem portCommandsTouchOnlyTheirPort : Obligations.PortCommandsTouchOnlyTheirPort := by
  intro s t i p hp hexec
  have h := exec_onlyPort hp hexec
  refine ⟨h.latch, h.unlisted, fun hlegal p' e' hne he' => ?_, fun p' hne => ⟨h.ctx p' hne, h.duty p' hne⟩, h.out⟩
  cases hlisted : s.cfg.coilMap? p with
  | none => rw [h.unlisted hlisted]
  | some e => exact and_eq_of_outside (h.latch e hlisted) (hlegal.masks_disjoint hlisted he' hne.symm)

end Machine

end Sys2Proof
end

section
/-! Rules R35, R40, R235: the reset values, and that they are a good state. -/

namespace Sys2Proof.Machine

/-- The step of an idle block whose host resets it is the reset of the block (rule R235). -/
theorem step_reset {s : State} {rest : List HostAction} (hidle : s.busy = false) (hhost : s.host = .reset :: rest) :
    step s = .next (State.blockReset { s with host := rest }) := by
  simp [step, State.advance, hidle, hhost]

/-- Settles O38: each of the three resets writes the reset values, the last two leaving the environment. -/
theorem resetGivesTheResetState : Obligations.ResetGivesTheResetState := by
  refine ⟨fun c => ?_, fun s => ?_, fun s rest hidle hhost => ⟨_, step_reset hidle hhost, ?_⟩⟩
  · exact ⟨rfl, State.resetWith_ctxOf c, rfl, rfl, rfl⟩
  · exact ⟨rfl, s.blockReset_ctxOf, rfl, rfl, rfl, rfl⟩
  · exact ⟨rfl, State.blockReset_ctxOf _, rfl, rfl, rfl, rfl, rfl, rfl⟩

theorem State.registersOk_resetWith {c : Config} (hc : c.Legal) : (State.resetWith c).RegistersOk :=
  (State.registersOk_iff _).2 ⟨State.contextsInRange_reset hc Env.powerOn [], rfl⟩

/-- Settles O40: the default parameters are legal, and for any legal ones the three invariants hold at reset. -/
theorem resetIsAGoodState : Obligations.ResetIsAGoodState :=
  have hdefault : defaultConfig.Legal := by decide
  ⟨State.registersOk_resetWith hdefault, fun c hc =>
    ⟨State.registersOk_resetWith hc, State.linesOk_reset c Env.powerOn [], State.dutiesOk_reset c Env.powerOn []⟩⟩

end Sys2Proof.Machine
end

section
/-! Rules R69, R98: what the command port does with an accepted word. -/

namespace Sys2Proof.Machine

variable {s : State} {w : Command} {rest : List HostAction}

/-- A word that decodes runs as the command it decodes to (rules R88, R98). -/
theorem State.runWord_of_decode {i : Instr} (h : decode w = .ok i) : s.runWord w = exec i s := by
  simp [State.runWord, h]

/-- The step of an idle block to which a word is presented runs that word (rule R98). -/
theorem step_command (hidle : s.busy = false) (hhost : s.host = .command w :: rest) :
    step s = (s.accept rest).runWord w := by
  simp [step, State.advance, hidle, hhost]

/-- The step of an idle block whose host cuts a word short by a reset (rule R236). -/
theorem step_commandThenReset {k : Nat} (hidle : s.busy = false) (hhost : s.host = .commandThenReset w k :: rest) :
    step s = (s.accept rest).cutShort w k := by
  simp [step, State.advance, hidle, hhost]

/-- Settles O6: the accepted word is the one that decodes to the command. -/
theorem stepRunsTheDecodedCommand : Obligations.StepRunsTheDecodedCommand :=
  fun _ _ _ _ hidle hhost hdecode => (step_command hidle hhost).trans (State.runWord_of_decode hdecode)

end Sys2Proof.Machine
end

section
/-! Rules R61, R62, R111: the receiver's output lines change when SER_LATCH is raised, and no command raises it before
its 27th event. -/

namespace Sys2Proof.Machine

variable {s t u v : State} {port : Option Code} {es fs : List Event}

/-- Only a rising SER_LATCH copies to the output lines (rule R61). -/
theorem Env.receive_q {e : Event} (h : e ≠ .w .serLatch true) (env : Env) (pins : Pins) :
    (env.receive pins e).q = env.q := by
  cases e with
  | w pin level =>
    cases pin with
    | serClk => simp only [Env.receive]; split <;> rfl
    | serLatch => cases level <;> simp_all [Env.receive]
    | serData => rfl
  | pwmSet => rfl
  | delay => rfl

/-- Events that do not raise SER_LATCH leave the output lines. -/
theorem State.emitAll_q (h : .w .serLatch true ∉ es) (s : State) : (s.emitAll es).env.q = s.env.q := by
  induction es generalizing s with
  | nil => rfl
  | cons e es ih =>
    obtain ⟨he, hes⟩ := not_or.1 (mt List.mem_cons.2 h)
    exact (ih hes (s.emit e)).trans (Env.receive_q (Ne.symm he) s.env s.pins)

/-- SER_LATCH is raised by no event before the 27th. -/
def LateCommit (es : List Event) : Prop := .w .serLatch true ∉ es.take 26

theorem LateCommit.of_notMem (h : .w .serLatch true ∉ es) : LateCommit es := fun hmem => h (List.mem_of_mem_take hmem)

theorem LateCommit.append (h : LateCommit es) (k : LateCommit fs) : LateCommit (es ++ fs) := fun hmem => by
  rw [List.take_append, List.mem_append] at hmem
  exact hmem.elim h fun hfs => k (List.take_subset_take_left fs (Nat.sub_le 26 es.length) hfs)

/-- Fewer than 27 such events leave the output lines. -/
theorem LateCommit.emitAll_take_q (h : LateCommit es) (s : State) {k : Nat} (hk : k < 27) :
    (s.emitAll (es.take k)).env.q = s.env.q :=
  s.emitAll_q fun hmem => h (List.take_subset_take_left es (Nat.le_of_lt_succ hk) hmem)

/-- TRANSMIT raises SER_LATCH with its last event (rule R111). -/
theorem lateCommit_transmitEvents (w : Byte) : LateCommit (transmitEvents w) := by
  simp [LateCommit, transmitEvents_eq]

/-- The 27 events act on the environment as a TRANSMIT of that latch word does. -/
theorem State.emitAll_transmitEvents_env (s : State) (w : Byte) :
    (s.emitAll (transmitEvents w)).env = ({ s with latch := w } : State).transmit.env :=
  State.emitAll_env_congr _ rfl rfl

/-- Settles O30: the eight bits shifted in replace all of SR, and SER_LATCH is raised at the last event only. -/
theorem receiverHoldsTheTransmittedWord : Obligations.ReceiverHoldsTheTransmittedWord := by
  intro s w
  rw [State.emitAll_transmitEvents_env]
  exact ⟨State.transmit_env_sr _, State.transmit_env_q _, rfl,
    fun _ hk => (lateCommit_transmitEvents w).emitAll_take_q s hk⟩

/-- `t` has appended events to the trace of `s`, none of the first 26 raising SER_LATCH. -/
def AppendsLateCommit (s t : State) : Prop := ∃ es, t.out = s.out ++ es ∧ LateCommit es

theorem AppendsLateCommit.refl (s : State) : AppendsLateCommit s s :=
  ⟨[], (List.append_nil _).symm, .of_notMem List.not_mem_nil⟩

theorem AppendsLateCommit.trans (h : AppendsLateCommit s u) (k : AppendsLateCommit u v) : AppendsLateCommit s v := by
  obtain ⟨es, hes, hlate⟩ := h
  obtain ⟨fs, hfs, hlate'⟩ := k
  exact ⟨es ++ fs, by rw [hfs, hes, List.append_assoc], hlate.append hlate'⟩

/-- Every sub-operation appends the 27 events of a TRANSMIT, or events that are no pin writes. -/
theorem SubOp.appendsLateCommit (h : SubOp port u v) : AppendsLateCommit u v := by
  cases h with
  | construct | setSpeed | move => exact AppendsLateCommit.refl u
  | sendEnables | sendRelease | sendMasked => exact ⟨_, State.transmit_out _, lateCommit_transmitEvents _⟩
  | programDuty => exact ⟨_, State.programDuty_out .., .of_notMem (by simp)⟩
  | pace _ us =>
    refine ⟨_, State.pace_out .., .of_notMem fun hmem => ?_⟩
    simpa using paceEvents_delay _ _ _ hmem

/-- So does every command with its answer. -/
theorem Answered.appendsLateCommit (h : Answered port s t) : AppendsLateCommit s t := by
  obtain ⟨u, r, hops, rfl⟩ := h
  have hu : AppendsLateCommit s u :=
    hops.keeps (fun hop hs => hs.trans hop.appendsLateCommit) (AppendsLateCommit.refl s)
  exact hu

/-! Reset inside a command. -/

/-- Every word runs to a next state (rules R214, R223). -/
theorem State.runWord_next (s : State) (w : Command) : ∃ t, s.runWord w = .next t := by
  unfold State.runWord
  split
  · next i _ =>
    obtain ⟨t, ht⟩ := exec_ignoresTrace i s
    exact ⟨_, ht []⟩
  · exact ⟨_, rfl⟩

/-- A word cut short: its first `k` events have happened, and the block is reset (rule R236). -/
theorem State.cutShort_of_runWord {w : Command} (h : s.runWord w = .next t) (hout : t.out = s.out ++ es) (k : Nat) :
    s.cutShort w k = .next (s.emitAll (es.take k)).blockReset := by
  simp [State.cutShort, h, newEvents, hout]

/-- Settles O39: the word cut short and the word run to its end start from the same accepted state, and no command
raises SER_LATCH before its 27th event. -/
theorem resetDuringACommandKeepsItsFirstEvents : Obligations.ResetDuringACommandKeepsItsFirstEvents := by
  intro s w k rest hidle hhost
  obtain ⟨u, hrun⟩ := (s.accept rest).runWord_next w
  obtain ⟨port, hanswered⟩ := runWord_answered hrun
  obtain ⟨es, hout, hlate⟩ := hanswered.appendsLateCommit
  have henv : ((s.accept rest).emitAll (es.take k)).env = (s.emitAll (es.take k)).env :=
    State.emitAll_env_congr _ rfl rfl
  refine ⟨_, u, es, ?_, ?_, hout, rfl, hlate.emitAll_take_q s⟩
  · rw [step_commandThenReset hidle hhost, State.cutShort_of_runWord hrun hout, State.blockReset, henv,
      State.emitAll_cfg, State.emitAll_host]
    rfl
  · exact (step_command (s := { s with host := .command w :: rest }) hidle rfl).trans hrun

end Sys2Proof.Machine
end

section
/-! Rules R66, R193, R196, R199: one iteration of STEP is the ONESTEP of the same operands, then PACE. -/

namespace Sys2Proof.Machine

/-- Answering touches the command port only: putting its two registers back undoes it (rule R98). -/
theorem State.respond_undo (s : State) (w : Word) : { s.respond w with rsp := s.rsp, busy := s.busy } = s := rfl

/-- An iteration is the PACE after the answered step, but for the command port (rules R196, R199). -/
theorem State.pacedStep_eq_pace_respond (s : State) (p : Code) (e : PortEntry) (dir : Direction) (style : Style)
    (us : Nat) (w : Word) : s.pacedStep p e dir style us =
      { ((s.oneStepCore p e dir style).respond w).pace p us with rsp := s.rsp, busy := s.busy } := by
  have hundo := State.respond_undo (s.pacedStep p e dir style us) w
  rw [State.pacedStep_rsp, State.pacedStep_busy] at hundo
  rw [State.pace_respond]
  exact hundo.symm

/-- The events of an iteration: those of its step, then those of its PACE (rules R66, R196). -/
theorem State.pacedStep_out (s : State) (p : Code) (e : PortEntry) (dir : Direction) (style : Style) (us : Nat) :
    (s.pacedStep p e dir style us).out = s.out ++ transmitEvents (s.oneStepCore p e dir style).latch ++
      [.pwmSet p .A ((s.oneStepCore p e dir style).ctxOf p).ocrA,
       .pwmSet p .B ((s.oneStepCore p e dir style).ctxOf p).ocrB] ++ paceEvents (s.ctxOf p).rem.toNat us := by
  rw [State.pacedStep, State.pace_out, State.oneStepCore_out, State.oneStepCore_ctxOf, if_pos rfl]

/-- Settles O48: the answer of ONESTEP commutes with PACE, and the events are read off in order. -/
theorem oneIterationIsOnestepThenPace : Obligations.OneIterationIsOnestepThenPace := by
  intro s p dir style us e d st he hv hd hs
  exact ⟨_, execOnestep_of s he hv hd hs, s.pacedStep_eq_pace_respond p e d st us _, s.pacedStep_out p e d st us⟩

end Sys2Proof.Machine
end

section
/-! Rule R72: the environment never returns a value. Two states that differ in the environment only stay so under every
operation of the block, so under every command. -/

namespace Sys2Proof.Machine

/-- `u` differs from `s` at most in the environment. -/
def State.SameButEnv (s u : State) : Prop := ∃ env, u = { s with env := env }

section
variable {s u : State}

/-! What the block reads of a state does not see the environment. -/

theorem State.SameButEnv.cfg (h : s.SameButEnv u) : u.cfg = s.cfg := by
  obtain ⟨env, rfl⟩ := h
  rfl

theorem State.SameButEnv.latch (h : s.SameButEnv u) : u.latch = s.latch := by
  obtain ⟨env, rfl⟩ := h
  rfl

theorem State.SameButEnv.ctxOf (h : s.SameButEnv u) (p : Code) : u.ctxOf p = s.ctxOf p := by
  obtain ⟨env, rfl⟩ := h
  rfl

theorem State.SameButEnv.posOf (h : s.SameButEnv u) (p : Code) : u.posOf p = s.posOf p := by
  obtain ⟨env, rfl⟩ := h
  rfl

theorem State.SameButEnv.checkPort (h : s.SameButEnv u) (p : Code) : u.checkPort p = s.checkPort p := by
  obtain ⟨env, rfl⟩ := h
  rfl

theorem State.SameButEnv.checkConstructed (h : s.SameButEnv u) (p : Code) :
    u.checkConstructed p = s.checkConstructed p := by
  obtain ⟨env, rfl⟩ := h
  rfl

theorem State.SameButEnv.checkMotion (h : s.SameButEnv u) (p dir style : Code) :
    u.checkMotion p dir style = s.checkMotion p dir style := by
  obtain ⟨env, rfl⟩ := h
  rfl

theorem State.SameButEnv.nextPos (h : s.SameButEnv u) (p : Code) (dir : Direction) (style : Style) :
    u.nextPos p dir style = s.nextPos p dir style := by
  obtain ⟨env, rfl⟩ := h
  rfl

/-! The operations of the block. -/

/-- An operation that carries the environment along unread. -/
theorem State.SameButEnv.map {f : State → State} (h : s.SameButEnv u)
    (hf : ∀ (s : State) (env : Env), f { s with env := env } = { f s with env := env }) : (f s).SameButEnv (f u) := by
  obtain ⟨env, rfl⟩ := h
  exact ⟨env, hf s env⟩

theorem State.SameButEnv.raise (h : s.SameButEnv u) (err : CmdError) : (s.raise err).SameButEnv (u.raise err) :=
  h.map (f := (State.raise · err)) fun _ _ => rfl

theorem State.SameButEnv.respond (h : s.SameButEnv u) (w : Word) : (s.respond w).SameButEnv (u.respond w) :=
  h.map (f := (State.respond · w)) fun _ _ => rfl

theorem State.SameButEnv.setCtx (h : s.SameButEnv u) (p : Code) (x : Ctx) :
    (s.setCtx p x).SameButEnv (u.setCtx p x) :=
  h.map (f := (State.setCtx · p x)) fun _ _ => rfl

theorem State.SameButEnv.setRem (h : s.SameButEnv u) (p : Code) (r : Nat) : (s.setRem p r).SameButEnv (u.setRem p r) :=
  h.map (f := (State.setRem · p r)) fun _ _ => rfl

/-- An event reaches the environment, but is none of its contents. -/
theorem State.SameButEnv.emit (h : s.SameButEnv u) (e : Event) : (s.emit e).SameButEnv (u.emit e) := by
  obtain ⟨env, rfl⟩ := h
  exact ⟨env.receive s.pins e, rfl⟩

theorem State.SameButEnv.emitAll (h : s.SameButEnv u) (es : List Event) : (s.emitAll es).SameButEnv (u.emitAll es) := by
  induction es generalizing s u with
  | nil => exact h
  | cons e es ih => exact ih (h.emit e)

theorem State.SameButEnv.transmit (h : s.SameButEnv u) : s.transmit.SameButEnv u.transmit := by
  rw [State.transmit, State.transmit, h.latch]
  exact h.emitAll _

theorem State.SameButEnv.programDuty (h : s.SameButEnv u) (p : Code) (chan : Channel) (d : Byte) :
    (s.programDuty p chan d).SameButEnv (u.programDuty p chan d) := by
  rw [State.programDuty, State.programDuty, h.ctxOf]
  exact (h.setCtx p _).emit _

theorem State.SameButEnv.pace (h : s.SameButEnv u) (p : Code) (us : Nat) : (s.pace p us).SameButEnv (u.pace p us) := by
  simp only [State.pace, h.ctxOf]
  split
  · exact ((h.emit _).emit _).setRem p _
  · exact (h.emit _).setRem p _

theorem State.SameButEnv.oneStepCore (h : s.SameButEnv u) (p : Code) (e : PortEntry) (dir : Direction)
    (style : Style) : (s.oneStepCore p e dir style).SameButEnv (u.oneStepCore p e dir style) := by
  simp only [State.oneStepCore, h.nextPos, h.cfg]
  have hlatch := h.map (f := fun v => (v.setPos p (s.nextPos p dir style)).enableCoils e
    (enables s.cfg style (s.nextPos p dir style))) fun _ _ => rfl
  exact (hlatch.transmit.programDuty p .A _).programDuty p .B _

theorem State.SameButEnv.pacedStep (h : s.SameButEnv u) (p : Code) (e : PortEntry) (dir : Direction) (style : Style)
    (us : Nat) : (s.pacedStep p e dir style us).SameButEnv (u.pacedStep p e dir style us) :=
  (h.oneStepCore p e dir style).pace p us

theorem State.SameButEnv.mainLoop (h : s.SameButEnv u) (p : Code) (e : PortEntry) (dir : Direction) (style : Style)
    (us n : Nat) : (State.mainLoop p e dir style us n s).SameButEnv (State.mainLoop p e dir style us n u) := by
  induction n generalizing s u with
  | zero => exact h
  | succ n ih => exact ih (h.pacedStep p e dir style us)

/-- The tail loop's guard reads the position and the parameters, the same in both states (rule R197). -/
theorem State.SameButEnv.tailLoop (h : s.SameButEnv u) (p : Code) (e : PortEntry) (dir : Direction) (us n : Nat) :
    (State.tailLoop p e dir us n s).SameButEnv (State.tailLoop p e dir us n u) := by
  induction n generalizing s u with
  | zero => exact h
  | succ n ih =>
    rw [State.tailLoop, State.tailLoop, h.posOf, h.cfg]
    split
    · exact ih (h.pacedStep p e dir .microstep us)
    · exact h

end

/-! The commands. -/

/-- A command that answers next states, and from states that differ in the environment only, such states again. -/
def IgnoresEnv (command : State → Host.Outcome State Fault Refusal) : Prop :=
  ∀ s u : State, s.SameButEnv u → ∃ t v, command s = .next t ∧ command u = .next v ∧ t.SameButEnv v

theorem execNew_ignoresEnv (p : Code) (spr : Word) : IgnoresEnv (execNew p spr) := fun s u h => by
  simp only [execNew, h.checkPort, h.ctxOf]
  cases s.checkPort p with
  | error err => exact ⟨_, _, rfl, rfl, h.raise err⟩
  | ok e => exact ⟨_, _, rfl, rfl, (h.setCtx p _).respond 0#32⟩

theorem execSetspeed_ignoresEnv (p : Code) (rpm : Word) : IgnoresEnv (execSetspeed p rpm) := fun s u h => by
  simp only [execSetspeed, h.checkConstructed, h.ctxOf]
  cases s.checkConstructed p with
  | error err => exact ⟨_, _, rfl, rfl, h.raise err⟩
  | ok e =>
    dsimp only
    split
    · exact ⟨_, _, rfl, rfl, h.raise .divByZero⟩
    · exact ⟨_, _, rfl, rfl, (h.setCtx p _).respond 0#32⟩

theorem execOnestep_ignoresEnv (p dir style : Code) : IgnoresEnv (execOnestep p dir style) := fun s u h => by
  simp only [execOnestep, h.checkMotion, h.nextPos]
  cases s.checkMotion p dir style with
  | error err => exact ⟨_, _, rfl, rfl, h.raise err⟩
  | ok r => exact ⟨_, _, rfl, rfl, (h.oneStepCore p _ _ _).respond _⟩

theorem execStep_ignoresEnv (p dir style : Code) (count : Word) : IgnoresEnv (execStep p dir style count) :=
  fun s u h => by
  simp only [execStep, h.checkMotion, h.ctxOf, h.cfg]
  cases s.checkMotion p dir style with
  | error err => exact ⟨_, _, rfl, rfl, h.raise err⟩
  | ok r =>
    obtain ⟨e, d, st⟩ := r
    have hmain := h.mainLoop p e d st (stepDelay s.cfg st (s.ctxOf p).usps.toNat) (stepCount s.cfg st count.toNat)
    cases st with
    | microstep => exact ⟨_, _, rfl, rfl, (hmain.tailLoop p e d _ _).respond 0#32⟩
    | single | double | interleave => exact ⟨_, _, rfl, rfl, hmain.respond 0#32⟩

theorem execRelease_ignoresEnv (p : Code) : IgnoresEnv (execRelease p) := fun s u h => by
  simp only [execRelease, h.checkConstructed]
  cases s.checkConstructed p with
  | error err => exact ⟨_, _, rfl, rfl, h.raise err⟩
  | ok e =>
    have hlatch := h.map (f := fun v => v.disableCoils e) fun _ _ => rfl
    exact ⟨_, _, rfl, rfl, ((hlatch.transmit.programDuty p .A 0#8).programDuty p .B 0#8).respond 0#32⟩

theorem execLatchw_ignoresEnv (mask value : Byte) : IgnoresEnv (execLatchw mask value) := fun _ _ h =>
  have hlatch := h.map (f := fun v => v.updateLatch mask value) fun _ _ => rfl
  ⟨_, _, rfl, rfl, hlatch.transmit.respond 0#32⟩

/-- No command reads the environment (rule R72). -/
theorem exec_ignoresEnv (i : Instr) : IgnoresEnv (exec i) := by
  cases i with
  | new port spr => exact execNew_ignoresEnv port spr
  | setspeed port rpm => exact execSetspeed_ignoresEnv port rpm
  | onestep port dir style => exact execOnestep_ignoresEnv port dir style
  | step port dir style count => exact execStep_ignoresEnv port dir style count
  | release port => exact execRelease_ignoresEnv port
  | latchw mask value => exact execLatchw_ignoresEnv mask value

/-- Settles O47: every operation of the block takes states that differ in the environment only to such states. -/
theorem theEnvironmentIsNeverRead : Obligations.TheEnvironmentIsNeverRead := by
  intro s i env
  obtain ⟨t, v, ht, hv, env', rfl⟩ := exec_ignoresEnv i s { s with env := env } ⟨env, rfl⟩
  exact ⟨t, env', ht, hv⟩

end Sys2Proof.Machine
end

section
/-! Rules R80, R81, R87 to R91: the decoder read by fields, the encoder as its inverse, and the illegal words. -/

namespace Sys2Proof

section
variable (op : BitVec 4) (port dir style : Code) (imm : Word)

/-! The fields of an assembled word, one by one. -/

@[simp] theorem opField_commandOf : opField (commandOf op port dir style imm) = op :=
  (fields_commandOf op port dir style imm).1

@[simp] theorem portField_commandOf : portField (commandOf op port dir style imm) = port :=
  (fields_commandOf op port dir style imm).2.1

@[simp] theorem dirField_commandOf : dirField (commandOf op port dir style imm) = dir :=
  (fields_commandOf op port dir style imm).2.2.1

@[simp] theorem styleField_commandOf : styleField (commandOf op port dir style imm) = style :=
  (fields_commandOf op port dir style imm).2.2.2.1

@[simp] theorem rsvField_commandOf : rsvField (commandOf op port dir style imm) = 0#3 :=
  (fields_commandOf op port dir style imm).2.2.2.2.1

@[simp] theorem immField_commandOf : immField (commandOf op port dir style imm) = imm :=
  (fields_commandOf op port dir style imm).2.2.2.2.2

end

section
variable (mask value : Byte)

/-! LATCHW's immediate: sixteen zero bits, then its two bytes (rule R81). -/

@[simp] theorem latchwImm_high : (0#16 ++ mask ++ value : Word).extractLsb' 16 16 = 0#16 := by
  rw [BitVec.append_assoc]
  exact BitVec.extractLsb'_append_eq_left

@[simp] theorem latchwImm_mask : (0#16 ++ mask ++ value : Word).extractLsb' 8 8 = mask := by
  rw [BitVec.extractLsb'_append_eq_of_le (le_refl 8)]
  exact BitVec.extractLsb'_append_eq_right

@[simp] theorem latchwImm_value : (0#16 ++ mask ++ value : Word).extractLsb' 0 8 = value :=
  BitVec.extractLsb'_append_eq_right

end

variable {w : Command} {i : Instr}

/-- A byte of the word below bit 32 is one of the immediate (rule R80). -/
theorem immField_byte (w : Command) {start : Nat} (h : start + 8 ≤ 32) :
    w.extractLsb' start 8 = (immField w).extractLsb' start 8 := by
  ext k hk
  have hlt : start + k < 32 := by omega
  simp [immField, hlt]

/-- The decoder with each row's match and mask test read by fields (rules R81, R89). -/
theorem decode_by_fields (w : Command) : decode w =
    if opField w = 1#4 ∧ dirField w = 0#3 ∧ styleField w = 0#3 ∧ rsvField w = 0#3 then
      .ok (.new (portField w) (immField w))
    else if opField w = 2#4 ∧ dirField w = 0#3 ∧ styleField w = 0#3 ∧ rsvField w = 0#3 then
      .ok (.setspeed (portField w) (immField w))
    else if opField w = 3#4 ∧ rsvField w = 0#3 ∧ immField w = 0#32 then
      .ok (.onestep (portField w) (dirField w) (styleField w))
    else if opField w = 4#4 ∧ rsvField w = 0#3 then
      .ok (.step (portField w) (dirField w) (styleField w) (immField w))
    else if opField w = 5#4 ∧ dirField w = 0#3 ∧ styleField w = 0#3 ∧ rsvField w = 0#3 ∧ immField w = 0#32 then
      .ok (.release (portField w))
    else if opField w = 6#4 ∧ portField w = 0#3 ∧ dirField w = 0#3 ∧ styleField w = 0#3 ∧ rsvField w = 0#3 ∧
        (immField w).extractLsb' 16 16 = 0#16 then
      .ok (.latchw ((immField w).extractLsb' 8 8) ((immField w).extractLsb' 0 8))
    else .error .badEncoding := by
  simp only [decode, row_new, row_setspeed, row_onestep, row_step, row_release, row_latchw,
    immField_byte w (start := 8) (by decide), immField_byte w (start := 0) (by decide)]

/-- The encoding of a command matches its own row and, by its `op`, no row before it. -/
theorem decode_encode (i : Instr) : decode (encode i) = .ok i := by
  rw [decode_by_fields]
  cases i with
  | new port spr => simp [encode]
  | setspeed port rpm => simp [encode]
  | onestep port dir style => simp [encode]
  | step port dir style count => simp [encode]
  | release port => simp [encode]
  | latchw mask value => simp [encode]

/-- Settles O1: each command's fields pass its own row's test and give the operands back. -/
theorem decodeGivesBackEveryEncodedCommand : Obligations.DecodeGivesBackEveryEncodedCommand :=
  decode_encode

/-- A word is the one assembled from its fields: it is determined by them, its reserved bits being zero. -/
theorem commandOf_eq_iff {op : BitVec 4} {port dir style : Code} {imm : Word} :
    commandOf op port dir style imm = w ↔ opField w = op ∧ portField w = port ∧ dirField w = dir ∧
      styleField w = style ∧ rsvField w = 0#3 ∧ immField w = imm := by
  constructor
  · rintro rfl
    exact fields_commandOf op port dir style imm
  · rintro ⟨rfl, rfl, rfl, rfl, hrsv, rfl⟩
    exact commandOf_fields w hrsv

/-- Each row fixes every field that its command does not keep as an operand. -/
theorem encode_of_decode (h : decode w = .ok i) : encode i = w := by
  rw [decode_by_fields] at h
  split_ifs at h with hnew hset hone hstep hrel hlatch <;> cases h <;> refine commandOf_eq_iff.2 ?_
  · obtain ⟨hop, hdir, hstyle, hrsv⟩ := hnew
    exact ⟨hop, rfl, hdir, hstyle, hrsv, rfl⟩
  · obtain ⟨hop, hdir, hstyle, hrsv⟩ := hset
    exact ⟨hop, rfl, hdir, hstyle, hrsv, rfl⟩
  · obtain ⟨hop, hrsv, himm⟩ := hone
    exact ⟨hop, rfl, rfl, rfl, hrsv, himm⟩
  · obtain ⟨hop, hrsv⟩ := hstep
    exact ⟨hop, rfl, rfl, rfl, hrsv, rfl⟩
  · obtain ⟨hop, hdir, hstyle, hrsv, himm⟩ := hrel
    exact ⟨hop, rfl, hdir, hstyle, hrsv, himm⟩
  · obtain ⟨hop, hport, hdir, hstyle, hrsv, hhigh⟩ := hlatch
    have himm := latchw_imm w hhigh
    rw [immField_byte w (start := 8) (by decide), immField_byte w (start := 0) (by decide)] at himm
    exact ⟨hop, hport, hdir, hstyle, hrsv, himm.symm⟩

/-- Settles O2: the word is assembled again from the fields its row leaves free. -/
theorem encodeGivesBackEveryDecodedWord : Obligations.EncodeGivesBackEveryDecodedWord :=
  fun _ _ => encode_of_decode

/-- The decoder and the encoder are inverse to each other on the legal words (rules R89, R91). -/
theorem decode_eq_ok_iff : decode w = .ok i ↔ encode i = w :=
  ⟨encode_of_decode, fun h => h ▸ decode_encode i⟩

/-- Settles O4: each worked word is the encoding of the command named beside it. -/
theorem workedEncodingsDecode : Obligations.WorkedEncodingsDecode := by
  unfold Obligations.WorkedEncodingsDecode
  simp only [decode_eq_ok_iff]
  decide

/-! The illegal words (rule R88). -/

/-- `op` names a row of the opcode map, or is one of the illegal codes 0 and 7 to 15 (rules R88, R89). -/
theorem opcode_cases (op : BitVec 4) :
    op = 0#4 ∨ op = 1#4 ∨ op = 2#4 ∨ op = 3#4 ∨ op = 4#4 ∨ op = 5#4 ∨ op = 6#4 ∨ 7#4 ≤ op := by
  revert op
  decide

/-- No row has an `op` of 7 or more (rule R89). -/
theorem opcode_ne_of_ge {op k : BitVec 4} (hop : 7#4 ≤ op) (hk : k < 7#4) : op ≠ k := by
  rintro rfl
  exact absurd hk (BitVec.not_lt.2 hop)

/-- A word is refused exactly when its `op` is no row's, or a bit that its row requires to be zero is set: each `op`
leaves one row, whose test fails when one of the fields it fixes is not zero (rules R81, R88). -/
theorem decode_eq_error_iff (w : Command) : decode w = .error .badEncoding ↔
    opField w = 0#4 ∨ 7#4 ≤ opField w ∨ rsvField w ≠ 0#3 ∨
    ((opField w = 1#4 ∨ opField w = 2#4 ∨ opField w = 5#4 ∨ opField w = 6#4) ∧
      (dirField w ≠ 0#3 ∨ styleField w ≠ 0#3)) ∨
    ((opField w = 3#4 ∨ opField w = 5#4) ∧ immField w ≠ 0#32) ∨
    (opField w = 6#4 ∧ (portField w ≠ 0#3 ∨ (immField w).extractLsb' 16 16 ≠ 0#16)) := by
  rw [decode_by_fields]
  rcases opcode_cases (opField w) with h | h | h | h | h | h | h | h
  · simp [h]
  · simp [h, imp_iff_not_or, or_comm, or_left_comm]
  · simp [h, imp_iff_not_or, or_comm, or_left_comm]
  · simp [h, imp_iff_not_or, or_comm]
  · simp [h]
  · simp [h, imp_iff_not_or, or_comm, or_left_comm, or_assoc]
  · simp [h, imp_iff_not_or, or_comm, or_left_comm, or_assoc]
  · have hne : ∀ k < 7#4, opField w ≠ k := fun k => opcode_ne_of_ge h
    simp [h, hne]

namespace Machine

/-- Settles O3: refusing an illegal word undoes its acceptance but for the response. -/
theorem illegalWordsAreRefused : Obligations.IllegalWordsAreRefused := by
  intro s w rest hidle hhost illegal
  refine ⟨decode_eq_error_iff w, fun hillegal => ?_⟩
  have hrun : (s.accept rest).runWord w = .next ((s.accept rest).raise .badEncoding) := by
    simp only [State.runWord, (decode_eq_error_iff w).2 hillegal]
  rw [step_command hidle hhost, hrun, State.accept, State.raise, hidle]
  rfl

end Machine

end Sys2Proof
end

section
/-! Rules R30, R69, R98, R237: the command port waits while it is busy or unasked, and answers every accepted word. -/

namespace Sys2Proof.Machine

variable {s t u v : State} {port : Option Code} {w : Command} {rest : List HostAction}

/-- A word presented to a busy block is not accepted (rule R98). -/
theorem step_busy (h : s.busy = true) : step s = .next s := by
  simp [step, State.advance, h]

/-- An idle block with nothing presented waits (rule R237). -/
theorem step_unasked (hidle : s.busy = false) (hhost : s.host = []) : step s = .next s := by
  simp [step, State.advance, hidle, hhost]

/-- Settles O7: the two ways a step has nothing to accept. -/
theorem busyOrUnaskedBlockWaits : Obligations.BusyOrUnaskedBlockWaits :=
  fun _ => ⟨step_busy, step_unasked⟩

/-- What the host does next is no register of the block: no sub-operation touches it. -/
theorem SubOp.host_eq (h : SubOp port u v) : v.host = u.host := by
  cases h <;> simp

/-- A command answers on the command port and leaves the parameters and the host's actions. -/
theorem Answered.port_frame (h : Answered port s t) :
    (∃ r, t.rsp = some r) ∧ t.busy = false ∧ t.host = s.host ∧ t.cfg = s.cfg := by
  obtain ⟨u, r, hops, rfl⟩ := h
  have hframe : u.host = s.host ∧ u.cfg = s.cfg :=
    hops.keeps (P := fun x => x.host = s.host ∧ x.cfg = s.cfg)
      (fun hop hx => ⟨hop.host_eq.trans hx.1, hop.cfg_eq.trans hx.2⟩) ⟨rfl, rfl⟩
  exact ⟨⟨r, rfl⟩, rfl, hframe⟩

/-- Settles O8: every word runs to a next state, and what it ran was sub-operations and one answer. -/
theorem everyAcceptedCommandIsAnswered : Obligations.EveryAcceptedCommandIsAnswered := by
  intro s w rest hidle hhost
  obtain ⟨t, hrun⟩ := (s.accept rest).runWord_next w
  obtain ⟨port, hanswered⟩ := runWord_answered hrun
  obtain ⟨⟨r, hrsp⟩, hbusy, hhost', hcfg⟩ := hanswered.port_frame
  exact ⟨t, r, (step_command hidle hhost).trans hrun, hrsp, hbusy, hhost', hcfg⟩

end Sys2Proof.Machine
end

section
/-! Rules R95, R211, R212: the response words, by fields. -/

namespace Sys2Proof.Machine

variable {s t : State} {w : Command} {i : Instr} {r : Response}

/-- The fields of a response word are what it was assembled from, and its reserved bits are zero (rule R95). -/
theorem fields_responseWord (status : BitVec 2) (cause : BitVec 3) (value : Word) :
    (responseWord status cause value).extractLsb' 38 2 = status ∧
      (responseWord status cause value).extractLsb' 35 3 = cause ∧
      (responseWord status cause value).extractLsb' 32 3 = 0#3 ∧
      (responseWord status cause value).extractLsb' 0 32 = value := by
  refine ⟨?_, ?_, ?_, ?_⟩ <;> unfold responseWord
  · rw [BitVec.append_assoc, BitVec.append_assoc]
    exact BitVec.extractLsb'_append_eq_left
  · rw [BitVec.extractLsb'_append_eq_of_le (by decide), BitVec.extractLsb'_append_eq_of_le (by decide)]
    exact BitVec.extractLsb'_append_eq_right
  · rw [BitVec.extractLsb'_append_eq_of_le (by decide)]
    exact BitVec.extractLsb'_append_eq_right
  · exact BitVec.extractLsb'_append_eq_right

/-- Settles O5: the codes of each error in the response layout. -/
theorem errorResponsesAreTheCodesOfTheSpec : Obligations.ErrorResponsesAreTheCodesOfTheSpec :=
  ⟨rfl, rfl, rfl, rfl, rfl, rfl⟩

/-- What a word with the code `op` can be answered: an error, or OK with the value 0, or, to an ONESTEP, OK with the
position it moved to (rules R95, R170, R214). -/
inductive AnswerTo (op : BitVec 4) : Response → Prop
  | error (err : CmdError) : AnswerTo op (errorResponse err)
  | done : AnswerTo op (okResponse 0#32)
  | position (hop : op = 3#4) (pos : Word) : AnswerTo op (okResponse pos)

theorem answerTo_raise {op : BitVec 4} (err : CmdError) (h : (s.raise err).rsp = some r) : AnswerTo op r := by
  cases h
  exact .error err

theorem answerTo_respond_zero {op : BitVec 4} (h : (s.respond 0#32).rsp = some r) : AnswerTo op r := by
  cases h
  exact .done

/-- Every command that does not raise an error ends with `respond(0)`, but for ONESTEP. -/
theorem exec_answerTo (h : exec i s = .next t) (hr : t.rsp = some r) : AnswerTo (opField (encode i)) r := by
  cases i with
  | new p spr =>
    rcases execNew_cases s p spr with ⟨err, hx⟩ | ⟨e, _, hx⟩ <;> cases hx.symm.trans h
    · exact answerTo_raise err hr
    · exact answerTo_respond_zero hr
  | setspeed p rpm =>
    rcases execSetspeed_cases s p rpm with ⟨err, hx⟩ | ⟨e, _, _, _, hx⟩ <;> cases hx.symm.trans h
    · exact answerTo_raise err hr
    · exact answerTo_respond_zero hr
  | onestep p dir style =>
    rcases execOnestep_cases s p dir style with ⟨err, hx⟩ | ⟨e, d, st, _, _, _, _, hx⟩ <;> cases hx.symm.trans h
    · exact answerTo_raise err hr
    · cases hr
      exact .position (opField_commandOf ..) _
  | step p dir style count =>
    rcases execStep_cases s p dir style count with ⟨err, hx⟩ | ⟨e, d, st, _, _, _, _, hx⟩ <;>
      cases hx.symm.trans h
    · exact answerTo_raise err hr
    · exact answerTo_respond_zero hr
  | release p =>
    rcases execRelease_cases s p with ⟨err, hx⟩ | ⟨e, _, _, hx⟩ <;> cases hx.symm.trans h
    · exact answerTo_raise err hr
    · exact answerTo_respond_zero hr
  | latchw mask value =>
    cases h
    exact answerTo_respond_zero hr

/-- So does every word: one that decodes as its command, an illegal one with BAD_ENCODING (rules R88, R215). -/
theorem runWord_answerTo (h : s.runWord w = .next t) (hr : t.rsp = some r) : AnswerTo (opField w) r := by
  unfold State.runWord at h
  split at h
  · next i hdecode =>
    rw [← encode_of_decode hdecode]
    exact exec_answerTo h hr
  · cases h
    exact answerTo_raise .badEncoding hr

/-- The seven pairs of status and cause (rules R211, R212). -/
def listedCodes : List (BitVec 2 × BitVec 3) :=
  [(0#2, 0#3), (1#2, 1#3), (1#2, 2#3), (1#2, 3#3), (1#2, 4#3), (1#2, 5#3), (2#2, 1#3)]

theorem CmdError.codes_listed (err : CmdError) : (err.status, err.cause) ∈ listedCodes := by
  cases err <;> decide

/-- Only the answer to an ONESTEP carries a value (rule R95). -/
theorem AnswerTo.codes {op : BitVec 4} (h : AnswerTo op r) :
    r.extractLsb' 32 3 = 0#3 ∧ (r.extractLsb' 38 2, r.extractLsb' 35 3) ∈ listedCodes ∧
      (r.extractLsb' 0 32 ≠ 0#32 → r.extractLsb' 38 2 = 0#2 ∧ op = 3#4) := by
  cases h with
  | error err =>
    obtain ⟨hstatus, hcause, hrsv, hvalue⟩ := fields_responseWord err.status err.cause 0#32
    rw [errorResponse, hstatus, hcause]
    exact ⟨hrsv, err.codes_listed, fun hne => absurd hvalue hne⟩
  | done =>
    obtain ⟨hstatus, hcause, hrsv, hvalue⟩ := fields_responseWord 0#2 0#3 0#32
    rw [okResponse, hstatus, hcause]
    exact ⟨hrsv, List.mem_cons_self, fun hne => absurd hvalue hne⟩
  | position hop pos =>
    obtain ⟨hstatus, hcause, hrsv, -⟩ := fields_responseWord 0#2 0#3 pos
    rw [okResponse, hstatus, hcause]
    exact ⟨hrsv, List.mem_cons_self, fun _ => ⟨rfl, hop⟩⟩

/-- Settles O10: the accepted word has one of the answers above. -/
theorem responsesHaveTheListedCodes : Obligations.ResponsesHaveTheListedCodes := by
  intro s t w rest r hidle hhost hstep hr
  rw [step_command hidle hhost] at hstep
  exact (runWord_answerTo hstep hr).codes

end Sys2Proof.Machine
end

section
/-! Rules R62, R93, R118, R120: `TX w`, which is LATCHW with the full mask. -/

namespace Sys2Proof.Machine

/-- A masked write with the full mask is the word itself (rules R93, R118). -/
theorem State.updateLatch_full (s : State) (word : Byte) : (s.updateLatch 0xFF#8 word).latch = word := by
  have hfull : (0xFF#8 : Byte) = BitVec.allOnes 8 := rfl
  rw [State.updateLatch_latch, hfull, BitVec.not_allOnes, BitVec.and_zero, BitVec.zero_or, BitVec.and_allOnes]

/-- Settles O28: the whole latch word is written, and its TRANSMIT brings the receiver to it. -/
theorem txBringsTheLinesToTheWord : Obligations.TxBringsTheLinesToTheWord := by
  intro s word
  refine ⟨_, rfl, ?_, ?_, ?_⟩
  · rw [State.respond_latch, State.transmit_latch, State.updateLatch_full]
  · rw [State.respond_env, State.transmit_env_sr, State.updateLatch_full]
  · rw [State.respond_env, State.transmit_env_q, State.updateLatch_full]

end Sys2Proof.Machine
end

section
/-! Rules R83, R84, R135 to R137, R161 to R170: the codes of a motion, and ONESTEP's effect in numbers for each. -/

namespace Sys2Proof.Machine

variable {dir style : Code} {d : Direction} {st : Style}

/-- Settles O49: each of the eight codes is looked up. -/
theorem codesNameDirectionsAndStyles : Obligations.CodesNameDirectionsAndStyles := by
  unfold Obligations.CodesNameDirectionsAndStyles
  decide

/-- Codes 1 and 2 name directions (rule R83). -/
theorem directionOf_of_code (h : dir = 1#3 ∨ dir = 2#3) : ∃ d, directionOf dir = some d := by
  rcases h with rfl | rfl <;> exact ⟨_, rfl⟩

/-- Codes 1 to 4 name styles (rule R84). -/
theorem styleOf_of_code (h : style = 1#3 ∨ style = 2#3 ∨ style = 3#3 ∨ style = 4#3) :
    ∃ st, styleOf style = some st := by
  rcases h with rfl | rfl | rfl | rfl <;> exact ⟨_, rfl⟩

/-- NEWPOS by the direction code (rules R83, R164). -/
theorem newPos_of_code (c : Config) (x k : Nat) (hd : directionOf dir = some d) :
    newPos c x d k = if dir = 1#3 then (x + k) % (4 * c.M) else (x + 4 * c.M - k) % (4 * c.M) := by
  obtain ⟨hforward, hbackward, -⟩ := codesNameDirectionsAndStyles dir
  cases d with
  | forward => rw [hforward.1 hd]; rfl
  | backward => rw [hbackward.1 hd]; rfl

/-- DELTA by the style code (rules R84, R161, R162). -/
theorem delta_of_code (c : Config) (x : Nat) (hs : styleOf style = some st) :
    delta c st x =
      if style = 1#3 then (if x / c.H % 2 = 1 then c.H else c.M)
      else if style = 2#3 then (if x / c.H % 2 = 1 then c.M else c.H)
      else if style = 3#3 then c.H else 1 := by
  obtain ⟨-, -, -, hsingle, hdouble, hinterleave, hmicrostep, -⟩ := codesNameDirectionsAndStyles style
  cases st with
  | single => rw [hsingle.1 hs]; rfl
  | double =>
    rw [hdouble.1 hs]
    rcases Nat.mod_two_eq_zero_or_one (x / c.H) with h | h <;> simp [delta, halfIndex, h]
  | interleave => rw [hinterleave.1 hs]; rfl
  | microstep => rw [hmicrostep.1 hs]; rfl

/-- `PHASE8` as a list (rule R136). -/
theorem phase8_eq_getD {k : Nat} (hk : k < 8) : phase8 (Fin.ofNat 8 k) =
    [[.A], [.A, .B], [.B], [.B, .C], [.C], [.C, .D], [.D], [.D, .A]].getD k [] := by
  interval_cases k <;> rfl

/-- `QUAD4` as a list (rule R137). -/
theorem quad4_eq_getD {q : Nat} (hq : q < 4) : quad4 (Fin.ofNat 4 q) =
    [[.A, .B], [.B, .C], [.C, .D], [.D, .A]].getD q [] := by
  interval_cases q <;> rfl

/-- ENABLES by the style code, at a position of the cycle (rules R84, R135 to R137). -/
theorem enables_of_code {c : Config} {pos : Nat} (hpos : pos < c.cycle) (hs : styleOf style = some st) :
    enables c st pos =
      if style = 4#3 then [[.A, .B], [.B, .C], [.C, .D], [.D, .A]].getD (pos / c.M) []
      else [[.A], [.A, .B], [.B], [.B, .C], [.C], [.C, .D], [.D], [.D, .A]].getD (pos / c.H) [] := by
  have hquadrant : pos / c.M < 4 := (Nat.div_lt_iff_lt_mul c.M_pos).2 hpos
  have hhalf : pos / c.H < 8 := by
    rw [Nat.div_lt_iff_lt_mul c.H_pos]
    have := c.M_eq_two_H
    rw [Config.cycle] at hpos
    omega
  obtain ⟨-, -, -, hsingle, hdouble, hinterleave, hmicrostep, -⟩ := codesNameDirectionsAndStyles style
  cases st with
  | single => rw [hsingle.1 hs]; exact phase8_eq_getD hhalf
  | double => rw [hdouble.1 hs]; exact phase8_eq_getD hhalf
  | interleave => rw [hinterleave.1 hs]; exact phase8_eq_getD hhalf
  | microstep => rw [hmicrostep.1 hs]; exact quad4_eq_getD hquadrant

/-- Settles O50: the codes pass the checks, and DELTA, NEWPOS and ENABLES are read off by code. -/
theorem onestepMovesByItsCodes : Obligations.OnestepMovesByItsCodes := by
  intro s p dir style e he hv hdir hstyle M H x k pos coils
  obtain ⟨d, hd⟩ := directionOf_of_code hdir
  obtain ⟨st, hs⟩ := styleOf_of_code hstyle
  have hnext : s.nextPos p d st = pos := by
    rw [State.nextPos, newPos_of_code _ _ _ hd, delta_of_code _ _ hs]
  refine ⟨_, execOnestep_of s he hv hd hs, ?_, ?_⟩
  · exact (s.oneStepCore_posOf p e d st).trans hnext
  · rw [State.respond_latch, State.oneStepCore_latch, enables_of_code (s.nextPos_lt p d st) hs, hnext]

end Sys2Proof.Machine
end

section
/-! Rules R111, R118: what TRANSMIT does to the block, and LATCHW, which transmits the latch word it has written under
its mask. -/

namespace Sys2Proof.Machine

/-- Settles O29: the 27 events are those of `transmitEvents_eq`, and a list of events changes `OUT`, the pins and the
environment only. -/
theorem transmitIsTheTwentySevenWrites : Obligations.TransmitIsTheTwentySevenWrites := by
  intro s w
  have hout : s.transmit.out = s.out ++ transmitEvents w := s.transmit_out
  rw [transmitEvents_eq] at hout
  exact ⟨hout, s.transmit_latch, s.transmit_ctx, s.transmit_cfg, s.transmit_host, s.transmit_busy, s.transmit_rsp,
    s.transmit_pins⟩

/-- Settles O27: the masked write changes only the latch word, TRANSMIT sends that word and programs no duty, and the
response reads 0. -/
theorem latchwWritesUnderItsMask : Obligations.LatchwWritesUnderItsMask := by
  intro s mask value
  refine ⟨((s.updateLatch mask value).transmit).respond 0#32, rfl, ?latch, ?out, ?pins, ?ctx, ?duty, ?cfg, ?host,
    ?rsp, State.respond_busy _ _⟩
  case latch => rw [State.respond_latch, State.transmit_latch, State.updateLatch_latch]
  case out =>
    rw [State.respond_out, State.transmit_out, State.respond_latch, State.transmit_latch, State.updateLatch_out]
  case pins => rw [State.respond_pins, State.transmit_pins, State.respond_latch, State.transmit_latch]
  case ctx => exact fun p => by rw [State.respond_ctxOf, State.transmit_ctxOf, State.updateLatch_ctxOf]
  case duty => exact fun p chan => by rw [State.respond_env, State.transmit_duty, State.updateLatch_env]
  case cfg => rw [State.respond_cfg, State.transmit_cfg, State.updateLatch_cfg]
  case host => rw [State.respond_host, State.transmit_host, State.updateLatch_host]
  case rsp => exact State.respond_rsp _ _

end Sys2Proof.Machine
end

section
/-! Rules R130 to R139, R146, R147, R232: the bits of the latch word a port owns, the enable sets by half-step index and
quadrant, and what they leave set. -/

namespace Sys2Proof

/-! The bits of the masks (rules R130, R138). -/

/-- A statement about some line is one about A, B, C or D. -/
theorem Coil.exists_iff {P : Coil → Prop} : (∃ x, P x) ↔ P .A ∨ P .B ∨ P .C ∨ P .D := by
  constructor
  · rintro ⟨x, hx⟩
    cases x <;> simp [hx]
  · rintro (h | h | h | h) <;> exact ⟨_, h⟩

/-- The position of a line's bit in the latch word (rule R130). -/
def PortEntry.bitOf (e : PortEntry) : Coil → Fin 8
  | .A => e.bitA
  | .B => e.bitB
  | .C => e.bitC
  | .D => e.bitD

/-- `mX(p)` is one-hot, at the position `COILMAP[p]` gives the line (rule R130). -/
theorem PortEntry.coilMask_eq (e : PortEntry) (x : Coil) : e.coilMask x = BitVec.twoPow 8 (e.bitOf x) := by
  cases x <;> exact (BitVec.twoPow_eq 8 _).symm

theorem PortEntry.coilMask_bit (e : PortEntry) (x : Coil) (k : Fin 8) :
    (e.coilMask x).getLsbD k = true ↔ e.bitOf x = k := by
  rw [e.coilMask_eq, BitVec.getLsbD_twoPow]
  simp [Fin.ext_iff]

/-- `PMASK(p)` is `ENBITS` of all four lines (rules R130, R138). -/
theorem PortEntry.portMask_eq_enBits (e : PortEntry) : e.portMask = e.enBits [.A, .B, .C, .D] := by
  simp [PortEntry.portMask, PortEntry.enBits, BitVec.or_assoc]

/-- The bits of `ENBITS(p, S)`, line by line (rule R138). -/
theorem PortEntry.enBits_bit_iff (e : PortEntry) (S : List Coil) (k : Fin 8) :
    (e.enBits S).getLsbD k = true ↔
      (.A ∈ S ∧ e.bitA = k) ∨ (.B ∈ S ∧ e.bitB = k) ∨ (.C ∈ S ∧ e.bitC = k) ∨ (.D ∈ S ∧ e.bitD = k) := by
  simp only [e.enBits_bit, e.coilMask_bit]
  exact Coil.exists_iff

/-- Settles O52: each line's mask is one-hot, `ENBITS` is the OR of them, and `PMASK` is `ENBITS` of all four lines. -/
theorem enableBitsAreThoseOfTheSet : Obligations.EnableBitsAreThoseOfTheSet := by
  intro e S k
  refine ⟨e.enBits_bit_iff S k, ?_⟩
  rw [e.portMask_eq_enBits, e.enBits_bit_iff]
  simp

/-- No bit of `ENBITS(p, S)` is outside `PMASK(p)` (rule R138). -/
theorem PortEntry.enBits_and_not_portMask (e : PortEntry) (S : List Coil) : e.enBits S &&& ~~~e.portMask = 0#8 := by
  simpa using e.enBits_outside 0#8 S

/-- Settles O33: the enable bits are 0 outside the port's own mask, and so they are on a mask disjoint from it, as the
other ports' masks of a legal map are. -/
theorem enableBitsStayInTheirPort : Obligations.EnableBitsStayInTheirPort := by
  intro c p p' e e' S hlegal he he'
  refine ⟨e.enBits_and_not_portMask S, fun hne => ?_⟩
  have hdisjoint : e.portMask &&& e'.portMask = 0#8 := hlegal.masks_disjoint he he' hne.symm
  have houtside : e.enBits S &&& ~~~e.portMask = 0#8 &&& ~~~e.portMask := by
    rw [e.enBits_and_not_portMask, BitVec.zero_and]
  exact (Machine.and_eq_of_outside houtside hdisjoint).trans BitVec.zero_and

/-- A latch word whose bits of the port are those of a set with a member has a bit of the port set (rules R138, R232). -/
theorem PortEntry.replaced_and_portMask_ne_zero (e : PortEntry) (w : Byte) {S : List Coil} {x : Coil} (hx : x ∈ S) :
    ((w &&& ~~~e.portMask) ||| e.enBits S) &&& e.portMask ≠ 0#8 := fun hzero => by
  have hline : (e.coilMask x).getLsbD (e.bitOf x) = true := (e.coilMask_bit x _).2 rfl
  have hset : (e.enBits S).getLsbD (e.bitOf x) = true := (e.enBits_bit S _).2 ⟨x, hx, hline⟩
  have hmask : e.portMask.getLsbD (e.bitOf x) = true := e.portMask_bit x _ hline
  have hbit := congrArg (BitVec.getLsbD · (e.bitOf x)) hzero
  simp only [BitVec.getLsbD_and, BitVec.getLsbD_or, hset, hmask, Bool.or_true, Bool.and_self, BitVec.getLsbD_zero,
    Bool.true_eq_false] at hbit

namespace Machine

/-! The enable sets (rules R135 to R139). -/

/-- The whole part of a position at an offset inside its unit. -/
theorem unit_of_offset {unit off : Nat} (h : off < unit) (k : Nat) : (k * unit + off) / unit = k :=
  Nat.div_eq_of_lt_le (Nat.le_add_right _ _) (by rw [Nat.succ_mul]; omega)

/-- In every style but Microstep the enable set is `PHASE8`'s at the half-step index (rules R135, R136). -/
theorem enables_eq_phase8 (c : Config) {style : Style} (hstyle : style ≠ .microstep) (pos : Nat) :
    enables c style pos = phase8 (Fin.ofNat 8 (pos / c.H)) := by
  cases style with
  | single | double | interleave => rfl
  | microstep => exact absurd rfl hstyle

/-- In Microstep it is `QUAD4`'s at the quadrant (rules R135, R137). -/
theorem enables_eq_quad4 (c : Config) (pos : Nat) : enables c .microstep pos = quad4 (Fin.ofNat 4 (pos / c.M)) := rfl

/-- Settles O51: at every offset the index is the half step's, or the quadrant's, and the tables are read off. -/
theorem enableSetsAreTheTables : Obligations.EnableSetsAreTheTables := by
  intro c off
  constructor
  · intro hoff style hstyle
    simp only [enables_eq_phase8 c hstyle, unit_of_offset hoff]
    rfl
  · intro hoff
    simp only [enables_eq_quad4, unit_of_offset hoff]
    rfl

/-- Every entry of `QUAD4` is one of `PHASE8`: the odd ones, with both coils on (rules R136, R137). -/
theorem quad4_eq_phase8 (q : Fin 4) : ∃ k, quad4 q = phase8 k := by
  fin_cases q
  exacts [⟨1, rfl⟩, ⟨3, rfl⟩, ⟨5, rfl⟩, ⟨7, rfl⟩]

/-- Every enable set is an entry of `PHASE8`. -/
theorem enables_mem_phase8 (c : Config) (style : Style) (pos : Nat) : ∃ k, enables c style pos = phase8 k := by
  by_cases hstyle : style = .microstep
  · subst hstyle
    exact quad4_eq_phase8 _
  · exact ⟨_, enables_eq_phase8 c hstyle pos⟩

/-- Rule R139 for the entries of `PHASE8`. -/
theorem phase8_drives_no_coil_both_ways (k : Fin 8) :
    1 ≤ (phase8 k).length ∧ (phase8 k).length ≤ 2 ∧ (phase8 k).Nodup ∧
      ¬ (.A ∈ phase8 k ∧ .C ∈ phase8 k) ∧ ¬ (.B ∈ phase8 k ∧ .D ∈ phase8 k) := by
  revert k
  decide

/-- Settles O32: every enable set is one of the eight entries of `PHASE8`, and each of these is looked up. -/
theorem enableSetsDriveNoCoilBothWays : Obligations.EnableSetsDriveNoCoilBothWays := by
  intro c style pos S
  obtain ⟨k, hk⟩ : ∃ k, S = phase8 k := enables_mem_phase8 c style pos
  rw [hk]
  exact phase8_drives_no_coil_both_ways k

/-- Settles O16: ONESTEP replaces the port's bits by those of an enable set, and no enable set is empty. -/
theorem onestepEnergisesThePort : Obligations.OnestepEnergisesThePort := by
  intro s p dir style e d st _ he hv hd hs
  refine ⟨_, execOnestep_of s he hv hd hs, ?_⟩
  obtain ⟨x, hx⟩ := enables_nonempty s.cfg st (s.nextPos p d st)
  rw [State.Energised, State.respond_latch, State.oneStepCore_latch]
  exact e.replaced_and_portMask_ne_zero s.latch hx

/-! The default tables (rules R132, R147). -/

/-- The default `COILMAP` meets rule R131, whatever curve it goes with. -/
theorem portsLegal_of_defaultPorts {c : Config} (h : c.ports = defaultPorts) : c.PortsLegal := by
  unfold Config.PortsLegal
  rw [h]
  decide

/-- The default curve of 17 points meets rule R146. -/
theorem curveLegal_defaultConfig : defaultConfig.CurveLegal := by decide

/-- The default curve of 9 points meets rule R146. -/
theorem curveLegal_defaultConfig9 : defaultConfig9.CurveLegal := by decide

/-- Settles O31: both curves and the coil map they share are checked entry by entry. -/
theorem defaultTablesAreLegal : Obligations.DefaultTablesAreLegal :=
  ⟨⟨curveLegal_defaultConfig, portsLegal_of_defaultPorts rfl⟩,
    ⟨curveLegal_defaultConfig9, portsLegal_of_defaultPorts rfl⟩, rfl, rfl⟩

end Machine

end Sys2Proof
end

section
/-! Rules R145 to R154: DUTY is a complementary pair of curve entries, whose index runs down the curve over an even
quadrant and up over an odd one; each obligation is then about that index. -/

namespace Sys2Proof

/-! The entries of the curve (rules R145, R146). -/

/-- The complementary pair of the index `j`: `CURVE[j]` and `CURVE[M − j]` (rule R154 (c)). -/
def Config.curvePair (c : Config) (j : Nat) : Byte × Byte := (c.curveAt j, c.curveAt (c.M - j))

/-- The pair of the opposite index is the pair swapped. -/
theorem Config.curvePair_sub (c : Config) {j : Nat} (hj : j ≤ c.M) :
    c.curvePair (c.M - j) = (c.curvePair j).swap := by
  rw [Config.curvePair, Nat.sub_sub_self hj]
  rfl

namespace Config.CurveLegal

variable {c : Config}

/-- Every index up to `M` is in the table of a legal curve (rule R146 (a)). -/
theorem getElem?_eq_curveAt (h : c.CurveLegal) {i : Nat} (hi : i ≤ c.M) : c.curve[i]? = some (c.curveAt i) := by
  obtain ⟨hlength, -⟩ := h
  have hin : i < c.curve.length := by omega
  rw [Config.curveAt, List.getD_eq_getElem _ _ hin, List.getElem?_eq_getElem hin]

/-- Only the first entry is 0 (rule R146 (c), (e)). -/
theorem curveAt_eq_zero_iff (h : c.CurveLegal) {i : Nat} (hi : i ≤ c.M) : c.curveAt i = 0#8 ↔ i = 0 := by
  obtain ⟨-, hfirst, -, -, hinner, -⟩ := h
  cases i with
  | zero => exact iff_of_true hfirst rfl
  | succ i => exact iff_of_false (hinner i hi) i.succ_ne_zero

/-- Only the last entry is 255 (rule R146 (c), (e)). -/
theorem curveAt_eq_max_iff (h : c.CurveLegal) {i : Nat} (hi : i ≤ c.M) : c.curveAt i = 255#8 ↔ i = c.M := by
  obtain ⟨-, -, hlast, -, -, hinner⟩ := h
  rcases hi.eq_or_lt with rfl | hlt
  · exact iff_of_true hlast rfl
  · exact iff_of_false (hinner i hlt) hlt.ne

end Config.CurveLegal

/-- The index `j` of the pair that DUTY is at offset `off` of quadrant `q` (rule R150). An offset of `M` stands for the
boundary to the next quadrant. -/
def Config.curveIndex (c : Config) (q off : Nat) : Nat := if q % 2 = 0 then c.M - off else off

section
variable (c : Config)

theorem Config.curveIndex_even {q : Nat} (hq : q % 2 = 0) (off : Nat) : c.curveIndex q off = c.M - off := if_pos hq

theorem Config.curveIndex_odd {q : Nat} (hq : q % 2 = 1) (off : Nat) : c.curveIndex q off = off :=
  if_neg (by omega)

theorem Config.curveIndex_le (q : Nat) {off : Nat} (ho : off ≤ c.M) : c.curveIndex q off ≤ c.M := by
  rcases Nat.mod_two_eq_zero_or_one q with hq | hq
  · rw [c.curveIndex_even hq]
    exact Nat.sub_le _ _
  · rwa [c.curveIndex_odd hq]

/-- One quadrant on, the index is the opposite one. -/
theorem Config.curveIndex_succ_quadrant (q : Nat) {off : Nat} (ho : off ≤ c.M) :
    c.curveIndex (q + 1) off = c.M - c.curveIndex q off := by
  rcases Nat.mod_two_eq_zero_or_one q with hq | hq
  · rw [c.curveIndex_even hq, c.curveIndex_odd (by omega), Nat.sub_sub_self ho]
  · rw [c.curveIndex_odd hq, c.curveIndex_even (by omega)]

/-- The next quadrant begins at the index where this one ends. -/
theorem Config.curveIndex_succ_quadrant_zero (q : Nat) : c.curveIndex (q + 1) 0 = c.curveIndex q c.M := by
  rcases Nat.mod_two_eq_zero_or_one q with hq | hq
  · rw [c.curveIndex_even hq, c.curveIndex_odd (by omega), Nat.sub_self]
  · rw [c.curveIndex_odd hq, c.curveIndex_even (by omega), Nat.sub_zero]

/-- The index depends on the quadrant's parity only. -/
theorem Config.curveIndex_mod_four (q off : Nat) : c.curveIndex (q % 4) off = c.curveIndex q off := by
  rw [Config.curveIndex, Config.curveIndex, Nat.mod_mod_of_dvd q (by decide : 2 ∣ 4)]

/-- One microstep inside the quadrant, its end included, moves the index by one (rule R154 (d)). -/
theorem Config.curveIndex_succ_offset (q : Nat) {off : Nat} (ho : off < c.M) :
    c.curveIndex q (off + 1) = c.curveIndex q off + 1 ∨ c.curveIndex q off = c.curveIndex q (off + 1) + 1 := by
  rcases Nat.mod_two_eq_zero_or_one q with hq | hq
  · rw [c.curveIndex_even hq, c.curveIndex_even hq]
    omega
  · rw [c.curveIndex_odd hq, c.curveIndex_odd hq]
    exact .inl rfl

/-- The index is 0 at the boundaries where an even quadrant ends (rule R154 (e)). -/
theorem Config.curveIndex_eq_zero_iff {q off : Nat} (hq : q < 4) (ho : off < c.M) :
    c.curveIndex q off = 0 ↔ q * c.M + off = c.M ∨ q * c.M + off = 3 * c.M := by
  rw [Config.curveIndex]
  interval_cases q <;> simp <;> omega

/-- The index is `M` at the boundaries where an even quadrant begins (rule R154 (e)). -/
theorem Config.curveIndex_eq_M_iff {q off : Nat} (hq : q < 4) (ho : off < c.M) :
    c.curveIndex q off = c.M ↔ q * c.M + off = 0 ∨ q * c.M + off = 2 * c.M := by
  rw [Config.curveIndex]
  interval_cases q <;> simp <;> omega

end

namespace Machine

variable (c : Config)

/-! DUTY by the index (rule R150). -/

/-- DUTY is the pair of the index of its quadrant and offset. -/
theorem duty_eq_curvePair {q off : Nat} (hq : q < 4) (ho : off < c.M) :
    duty c (q * c.M + off) = c.curvePair (c.curveIndex q off) := by
  rw [duty_eq c q off hq ho]
  rcases Nat.mod_two_eq_zero_or_one q with heven | hodd
  · rw [if_pos heven, c.curveIndex_even heven, c.curvePair_sub ho.le]
    rfl
  · rw [if_neg (by omega), c.curveIndex_odd hodd]
    rfl

/-- The same round the cycle, any number of times. -/
theorem duty_mod_cycle_of_lt (q : Nat) {off : Nat} (ho : off < c.M) :
    duty c ((q * c.M + off) % (4 * c.M)) = c.curvePair (c.curveIndex q off) := by
  have hwrap : (q * c.M + off) % (4 * c.M) = q % 4 * c.M + off := by
    rcases c.M_cases with hM | hM <;> rw [hM] at ho ⊢ <;> omega
  rw [hwrap, duty_eq_curvePair c (Nat.mod_lt q (by decide)) ho, c.curveIndex_mod_four]

/-- The same at the far boundary of the quadrant too, which is the first position of the next. -/
theorem duty_mod_cycle (q : Nat) {off : Nat} (ho : off ≤ c.M) :
    duty c ((q * c.M + off) % (4 * c.M)) = c.curvePair (c.curveIndex q off) := by
  rcases ho.lt_or_eq with hlt | rfl
  · exact duty_mod_cycle_of_lt c q hlt
  · have hnext := duty_mod_cycle_of_lt c (q + 1) c.M_pos
    rwa [Nat.succ_mul, Nat.add_zero, c.curveIndex_succ_quadrant_zero] at hnext

/-- Settles O53: the pair of the two entries, both of which a legal curve's table holds. -/
theorem dutyReadsTheCurve : Obligations.DutyReadsTheCurve := by
  intro c q off ⟨hcurve, _⟩ hq ho
  exact ⟨_, _, hcurve.getElem?_eq_curveAt ho.le, hcurve.getElem?_eq_curveAt (Nat.sub_le _ _), duty_eq c q off hq ho⟩

/-- Settles O54: the next position has the next offset of the same quadrant, or is that quadrant's far boundary. -/
theorem dutyMovesToAdjacentEntries : Obligations.DutyMovesToAdjacentEntries := by
  intro c pos hpos
  obtain ⟨q, off, hq, ho, rfl⟩ := position_split c pos hpos
  exact ⟨c.curveIndex q off, c.curveIndex q (off + 1), c.curveIndex_le q ho.le, c.curveIndex_le q ho,
    c.curveIndex_succ_offset q ho, duty_eq_curvePair c hq ho, duty_mod_cycle c q ho⟩

/-- Settles O35: a quadrant on the index is the opposite one, and two quadrants on the same. -/
theorem dutySwapsEveryQuarter : Obligations.DutySwapsEveryQuarter := by
  intro c pos hpos
  obtain ⟨q, off, hq, ho, rfl⟩ := position_split c pos hpos
  have hle := c.curveIndex_le q ho.le
  rw [duty_eq_curvePair c hq ho]
  refine ⟨?quarter, ?half, ?quadrant0⟩
  case quarter =>
    have hpos : q * c.M + off + c.M = (q + 1) * c.M + off := by ring
    rw [hpos, duty_mod_cycle c _ ho.le, c.curveIndex_succ_quadrant q ho.le, c.curvePair_sub hle]
    rfl
  case half =>
    have hpos : q * c.M + off + 2 * c.M = (q + 1 + 1) * c.M + off := by ring
    rw [hpos, duty_mod_cycle c _ ho.le, c.curveIndex_succ_quadrant _ ho.le, c.curveIndex_succ_quadrant q ho.le,
      Nat.sub_sub_self hle]
  case quadrant0 =>
    intro hlt
    rw [← duty_eq_curvePair c hq ho]
    simpa using duty_eq c 0 (q * c.M + off) (by decide) hlt

/-- Settles O34: on a legal curve a duty is 0 or 255 exactly when the index is at an end of the curve, and the index is
there exactly at the boundaries. -/
theorem dutyIsExtremeOnlyAtQuadrantBoundaries : Obligations.DutyIsExtremeOnlyAtQuadrantBoundaries := by
  intro c pos ⟨hcurve, _⟩ hpos
  obtain ⟨q, off, hq, ho, rfl⟩ := position_split c pos hpos
  have hle := c.curveIndex_le q ho.le
  have hle' := Nat.sub_le c.M (c.curveIndex q off)
  rw [duty_eq_curvePair c hq ho, ← c.curveIndex_eq_zero_iff hq ho, ← c.curveIndex_eq_M_iff hq ho]
  refine ⟨hcurve.curveAt_eq_zero_iff hle, (hcurve.curveAt_eq_max_iff hle').trans ?_,
    hcurve.curveAt_eq_max_iff hle, (hcurve.curveAt_eq_zero_iff hle').trans ?_⟩
  · have := c.M_pos
    omega
  · omega

end Machine

end Sys2Proof
end

section
/-! Rules R161 to R167, R171, R246: the styles but Microstep move whole half steps round the cycle of eight, so the
half-step index moves by their number and what is left of the position below `H` stays. -/

namespace Sys2Proof

theorem Config.cycle_eq_eight_H (c : Config) : c.cycle = 8 * c.H := by
  rw [c.cycle_eq, c.M_eq_two_H, ← Nat.mul_assoc]

namespace Machine

variable (c : Config) (pos : Nat) (d : Direction)

/-! DELTA in half steps (rule R162). -/

theorem delta_single : delta c .single pos = (2 - halfIndex c pos % 2) * c.H := by
  rcases Nat.mod_two_eq_zero_or_one (halfIndex c pos) with h | h <;> simp [delta, h, c.M_eq_two_H]

theorem delta_double : delta c .double pos = (1 + halfIndex c pos % 2) * c.H := by
  rcases Nat.mod_two_eq_zero_or_one (halfIndex c pos) with h | h <;> simp [delta, h, c.M_eq_two_H]

theorem delta_interleave : delta c .interleave pos = 1 * c.H := (Nat.one_mul c.H).symm

/-- One call of another style than Microstep moves one half step or two. -/
theorem delta_eq_mul_H {st : Style} (hst : st ≠ .microstep) : ∃ k ≤ 2, delta c st pos = k * c.H := by
  cases st with
  | single => exact ⟨_, Nat.sub_le _ _, delta_single c pos⟩
  | double => exact ⟨_, by omega, delta_double c pos⟩
  | interleave => exact ⟨1, by decide, delta_interleave c pos⟩
  | microstep => exact absurd rfl hst

/-! NEWPOS in half steps (rule R164). -/

/-- The half steps forward that `k` half steps in a direction come to, round the cycle of eight. -/
def forwardHalfSteps (d : Direction) (k : Nat) : Nat :=
  match d with
  | .forward => k
  | .backward => 8 - k

theorem newPos_mul_H {k : Nat} (hk : k ≤ 8) :
    newPos c pos d (k * c.H) = (pos + forwardHalfSteps d k * c.H) % (8 * c.H) := by
  cases d with
  | forward => rw [newPos, c.cycle_eq_eight_H, forwardHalfSteps]
  | backward =>
    have hle : k * c.H ≤ 8 * c.H := Nat.mul_le_mul_right c.H hk
    rw [newPos, c.cycle_eq_eight_H, forwardHalfSteps, Nat.sub_mul, Nat.add_sub_assoc hle]

/-- The half-step index goes round modulo 8. -/
theorem halfIndex_newPos {k : Nat} (hk : k ≤ 8) :
    halfIndex c (newPos c pos d (k * c.H)) = (halfIndex c pos + forwardHalfSteps d k) % 8 := by
  rw [halfIndex, newPos_mul_H c pos d hk, Nat.mul_comm 8, Nat.mod_mul_right_div_self,
    Nat.add_mul_div_right _ _ c.H_pos, halfIndex]

/-- The part of the position below a half step stays. -/
theorem newPos_mod_H {k : Nat} (hk : k ≤ 8) : newPos c pos d (k * c.H) % c.H = pos % c.H := by
  rw [newPos_mul_H c pos d hk, Nat.mod_mul_left_mod, Nat.add_mul_mod_self_right]

/-- Settles O37: a step of whole half steps leaves what is below a half step. -/
theorem misalignmentPersists : Obligations.MisalignmentPersists := by
  intro c pos d st hst
  obtain ⟨k, hk, hdelta⟩ := delta_eq_mul_H c pos hst
  rw [hdelta, newPos_mod_H c pos d (hk.trans (by decide))]

/-! The half-step index after one step (rules R165 to R167), for every position, one outside the cycle too. -/

/-- A Single step ends on an even index: one half step from an odd one, two from an even one (rule R165). -/
theorem halfIndex_after_single : halfIndex c (newPos c pos d (delta c .single pos)) % 2 = 0 := by
  rw [delta_single, halfIndex_newPos c pos d (by omega)]
  cases d <;> simp only [forwardHalfSteps] <;> omega

/-- A Double step ends on an odd index: one half step from an even one, two from an odd one (rule R166). -/
theorem halfIndex_after_double : halfIndex c (newPos c pos d (delta c .double pos)) % 2 = 1 := by
  rw [delta_double, halfIndex_newPos c pos d (by omega)]
  cases d <;> simp only [forwardHalfSteps] <;> omega

/-- An Interleave step ends on the neighbouring index in its direction (rule R167). -/
theorem halfIndex_after_interleave :
    halfIndex c (newPos c pos d (delta c .interleave pos)) = (halfIndex c pos + forwardHalfSteps d 1) % 8 := by
  rw [delta_interleave, halfIndex_newPos c pos d (by decide)]

/-- Settles O36: a Single and a Double step choose their half steps by the parity, and an Interleave step is one. -/
theorem stylesForceTheParityOfTheIndex : Obligations.StylesForceTheParityOfTheIndex := by
  intro c pos d _
  refine ⟨halfIndex_after_single c pos d, halfIndex_after_double c pos d, ?_⟩
  exact (halfIndex_after_interleave c pos d).trans (by cases d <;> rfl)

end Machine

end Sys2Proof
end

section
/-! Rules R213 to R220: a command that drives a port and to which an error applies is refused with the first one. -/

namespace Sys2Proof.Machine

variable (s : State) {p dir style : Code} {err : CmdError}

/-- The port and construction checks fail with the first error that applies to RELEASE (rules R216, R217, R220). -/
theorem State.checkConstructed_of_refusal (h : s.refusal (.release p) = some err) :
    s.checkConstructed p = .error err := by
  rcases s.checkConstructed_cases p with ⟨e, he, hv, -⟩ | ⟨hn, hc⟩ | ⟨e, he, hv, hc⟩
  · simp [State.refusal, Config.hasPort, he, hv] at h
  · rw [hc]
    simpa [State.refusal, Config.hasPort, hn] using h
  · rw [hc]
    simpa [State.refusal, Config.hasPort, he, hv] using h

/-- The codes that rule R218 refuses are those without a direction (rule R83). -/
theorem directionOf_eq_none_iff : ∀ dir : Code, directionOf dir = none ↔ dir ≠ 1#3 ∧ dir ≠ 2#3 := by decide

/-- The codes that rule R219 refuses are those without a style (rule R84). -/
theorem styleOf_eq_none_iff : ∀ style : Code, styleOf style = none ↔ style = 0#3 ∨ 4#3 < style := by decide

/-- The errors of a motion command: those of RELEASE first, then the direction, then the style (rule R220). -/
theorem State.refusal_onestep : s.refusal (.onestep p dir style) =
    (s.refusal (.release p)).or
      (if directionOf dir = none then some .badDirection
        else if styleOf style = none then some .badStyle else none) := by
  simp only [State.refusal, directionOf_eq_none_iff, styleOf_eq_none_iff]
  split
  · rfl
  · split <;> rfl

/-- The four checks fail with the first error that applies to a motion command (rules R216 to R220). -/
theorem State.checkMotion_of_refusal (h : s.refusal (.onestep p dir style) = some err) :
    s.checkMotion p dir style = .error err := by
  rw [State.refusal_onestep] at h
  unfold State.checkMotion
  cases hr : s.refusal (.release p) with
  | some first =>
    obtain rfl : first = err := by simpa [hr] using h
    rw [s.checkConstructed_of_refusal hr]
  | none =>
    rw [hr, Option.none_or] at h
    rcases s.checkConstructed_cases p with ⟨e, he, hv, hc⟩ | ⟨hn, -⟩ | ⟨e, he, hv, -⟩
    · rw [hc]
      cases hd : directionOf dir with
      | none => simpa [hd] using h
      | some d =>
        cases hs : styleOf style with
        | none => simpa [hd, hs] using h
        | some st => simp [hd, hs] at h
    · simp [State.refusal, Config.hasPort, hn] at hr
    · simp [State.refusal, Config.hasPort, he, hv] at hr

/-- RELEASE is refused with the error that applies to it (rule R213). -/
theorem execRelease_of_refusal (h : s.refusal (.release p) = some err) : execRelease p s = .next (s.raise err) := by
  rw [execRelease, s.checkConstructed_of_refusal h]

/-- ONESTEP is refused with the error that applies to it (rule R213). -/
theorem execOnestep_of_refusal (h : s.refusal (.onestep p dir style) = some err) :
    execOnestep p dir style s = .next (s.raise err) := by
  rw [execOnestep, s.checkMotion_of_refusal h]

end Sys2Proof.Machine
end

section
/-! Rules R168 to R172: ONESTEP. -/

namespace Sys2Proof.Machine

/-- A response of status OK is its value (rule R95). -/
theorem okResponse_eq (v : Word) : okResponse v = 0#8 ++ v := rfl

/-- The stepping port's two duty outputs are the duties of its new position (rule R170). -/
theorem State.oneStepCore_own_duty (s : State) (p : Code) (e : PortEntry) (d : Direction) (st : Style) :
    (s.oneStepCore p e d st).env.duty p .A = (duty s.cfg (s.nextPos p d st)).1 ∧
      (s.oneStepCore p e d st).env.duty p .B = (duty s.cfg (s.nextPos p d st)).2 := by
  simp only [State.oneStepCore_duty, State.oneStepCore_ctxOf, if_true, Ctx.ocr, and_self]

/-- Settles O15: what one step of the state machine does to each register, the command port answering after it. -/
theorem onestepTakesOneTransition : Obligations.OnestepTakesOneTransition := by
  intro s p dir style
  refine ⟨fun err herr => execOnestep_of_refusal s herr, fun e d st he hv hd hs => ?_⟩
  intro pos
  have hpos : s.nextPos p d st = pos := rfl
  obtain ⟨hdutyA, hdutyB⟩ := s.oneStepCore_own_duty p e d st
  rw [hpos] at hdutyA hdutyB
  refine ⟨_, execOnestep_of s he hv hd hs, ?position, s.nextPos_lt p d st, ?ctx, ?others, ?latch, ?out, ?pins, ?dutyA,
    ?dutyB, ?otherDuties, ?cfg, ?host, ?rsp, State.respond_busy _ _⟩
  case position => rw [State.respond_posOf, State.oneStepCore_posOf, hpos]
  case ctx => rw [State.respond_ctxOf, State.oneStepCore_ctxOf, if_pos rfl, hpos]
  case others => exact fun p' hne => by rw [State.respond_ctxOf, State.oneStepCore_ctxOf, if_neg hne]
  case latch => rw [State.respond_latch, State.oneStepCore_latch, hpos]
  case out => rw [State.respond_out, State.respond_latch, State.oneStepCore_out, hpos]
  case pins => rw [State.respond_pins, State.respond_latch, State.oneStepCore_pins]
  case dutyA => rw [State.respond_env, hdutyA]
  case dutyB => rw [State.respond_env, hdutyB]
  case otherDuties => exact fun p' chan hne => by rw [State.respond_env, State.oneStepCore_duty, if_neg hne]
  case cfg => rw [State.respond_cfg, State.oneStepCore_cfg]
  case host => rw [State.respond_host, State.oneStepCore_host]
  case rsp => rw [State.respond_rsp, okResponse_eq, hpos]

end Sys2Proof.Machine
end

section
/-! Rules R175, R176: RELEASE, and that a second one finds nothing left to change. -/

namespace Sys2Proof.Machine

/-- What RELEASE does before it answers (rule R175). -/
def State.releaseCore (s : State) (p : Code) (e : PortEntry) : State :=
  (((s.disableCoils e).transmit).programDuty p .A 0#8).programDuty p .B 0#8

section
variable (s : State) (p p' : Code) (e : PortEntry)

theorem execRelease_of_constructed {p : Code} {e : PortEntry} (hc : s.Constructed p e) :
    execRelease p s = .next ((s.releaseCore p e).respond 0#32) := execRelease_of s hc.listed hc.valid

@[simp] theorem State.releaseCore_latch : (s.releaseCore p e).latch = s.latch &&& ~~~e.portMask := by
  simp [State.releaseCore]

/-- The released port's context loses its two duties, and no other context changes. -/
theorem State.releaseCore_ctxOf : (s.releaseCore p e).ctxOf p' =
    if p' = p then { s.ctxOf p with ocrA := 0#8, ocrB := 0#8 } else s.ctxOf p' := by
  by_cases h : p' = p
  · subst h
    simp [State.releaseCore, State.programDuty_ctxOf, Ctx.setOcr]
  · simp [State.releaseCore, State.programDuty_ctxOf, h]

theorem State.releaseCore_out : (s.releaseCore p e).out =
    s.out ++ transmitEvents (s.releaseCore p e).latch ++ [Event.pwmSet p .A 0#8, Event.pwmSet p .B 0#8] := by
  simp [State.releaseCore]

theorem State.releaseCore_pins : (s.releaseCore p e).pins =
    { serLatch := true, serData := (s.releaseCore p e).latch.getLsbD 0, serClk := true } := by
  simp [State.releaseCore]

/-- The released port's two duty outputs become 0, and no other output changes. -/
theorem State.releaseCore_duty (chan : Channel) :
    (s.releaseCore p e).env.duty p' chan = if p' = p then 0#8 else s.env.duty p' chan := by
  by_cases h : p' = p
  · cases chan <;> simp [State.releaseCore, Env.duty_setDuty, h]
  · simp [State.releaseCore, Env.duty_setDuty, h]

/-- The receiver holds the cleared word (rule R62). -/
theorem State.releaseCore_sr : (s.releaseCore p e).env.sr = (s.releaseCore p e).latch := by
  rw [State.releaseCore_latch, State.releaseCore, State.programDuty_env, Env.setDuty_sr, State.programDuty_env,
    Env.setDuty_sr, State.transmit_env_sr, State.disableCoils_latch]

theorem State.releaseCore_q : (s.releaseCore p e).env.q = (s.releaseCore p e).latch := by
  rw [State.releaseCore_latch, State.releaseCore, State.programDuty_env, Env.setDuty_q, State.programDuty_env,
    Env.setDuty_q, State.transmit_env_q, State.disableCoils_latch]

@[simp] theorem State.releaseCore_cfg : (s.releaseCore p e).cfg = s.cfg := by simp [State.releaseCore]
@[simp] theorem State.releaseCore_host : (s.releaseCore p e).host = s.host := by simp [State.releaseCore]

end

/-- Clearing the bits of a mask leaves none of them. -/
theorem and_not_and_eq_zero (w m : Byte) : w &&& ~~~m &&& m = 0#8 := by
  refine BitVec.eq_of_getLsbD_eq fun k _ => ?_
  cases hm : m.getLsbD k <;> simp [hm]

/-- Clearing bits that are clear changes nothing. -/
theorem and_not_eq_self {w m : Byte} (h : w &&& m = 0#8) : w &&& ~~~m = w := by
  refine BitVec.eq_of_getLsbD_eq fun k hk => ?_
  have hbit : (w.getLsbD k && m.getLsbD k) = false := by
    simpa only [BitVec.getLsbD_and, BitVec.getLsbD_zero] using congrArg (BitVec.getLsbD · k) h
  rw [BitVec.getLsbD_and, BitVec.getLsbD_not, decide_eq_true hk, Bool.true_and]
  cases hm : m.getLsbD k
  · exact Bool.and_true _
  · rw [hm, Bool.and_true] at hbit
    rw [hbit, Bool.false_and]

/-! A released port (rule R176). -/

section
variable {t : State} {p : Code} {e : PortEntry}

theorem State.released_releaseCore (s : State) (p : Code) (e : PortEntry) : (s.releaseCore p e).Released p e := by
  rw [State.Released, State.releaseCore_latch, State.releaseCore_ctxOf, if_pos rfl]
  exact ⟨and_not_and_eq_zero _ _, rfl, rfl⟩

/-- Answering does not touch what is released. -/
theorem State.Released.respond (h : t.Released p e) (v : Word) : (t.respond v).Released p e := h

/-- A context whose duties are 0 stays as it is when they are set to 0. -/
theorem Ctx.zero_duties_eq_self {x : Ctx} (hA : x.ocrA = 0#8) (hB : x.ocrB = 0#8) :
    { x with ocrA := 0#8, ocrB := 0#8 } = x := by
  cases x
  simp_all only

/-- Releasing a released port changes no latch bit. -/
theorem State.Released.latch_releaseCore (h : t.Released p e) : (t.releaseCore p e).latch = t.latch := by
  obtain ⟨hbits, -, -⟩ := h
  rw [State.releaseCore_latch, and_not_eq_self hbits]

/-- Releasing a released port changes no context. -/
theorem State.Released.ctxOf_releaseCore (h : t.Released p e) (p' : Code) :
    (t.releaseCore p e).ctxOf p' = t.ctxOf p' := by
  obtain ⟨-, hA, hB⟩ := h
  rw [State.releaseCore_ctxOf]
  split
  · next heq => rw [heq, Ctx.zero_duties_eq_self hA hB]
  · rfl

end

/-- Settles O17: what RELEASE does to each register, the command port answering after it. -/
theorem releaseDeenergisesThePort : Obligations.ReleaseDeenergisesThePort := by
  intro s p
  refine ⟨fun err herr => execRelease_of_refusal s herr, fun e he hv => ?_⟩
  refine ⟨_, execRelease_of_constructed s ⟨he, hv⟩, (s.released_releaseCore p e).respond _, ?latch, ?ctx,
    ?others, ?out, ?pins, ?dutyA, ?dutyB, ?otherDuties, ?cfg, ?host, State.respond_rsp _ _, State.respond_busy _ _⟩
  case latch => rw [State.respond_latch, State.releaseCore_latch]
  case ctx => rw [State.respond_ctxOf, State.releaseCore_ctxOf, if_pos rfl]
  case others => exact fun p' hne => by rw [State.respond_ctxOf, State.releaseCore_ctxOf, if_neg hne]
  case out => rw [State.respond_out, State.respond_latch, State.releaseCore_out]
  case pins => rw [State.respond_pins, State.respond_latch, State.releaseCore_pins]
  case dutyA => rw [State.respond_env, State.releaseCore_duty, if_pos rfl]
  case dutyB => rw [State.respond_env, State.releaseCore_duty, if_pos rfl]
  case otherDuties => exact fun p' chan hne => by rw [State.respond_env, State.releaseCore_duty, if_neg hne]
  case cfg => rw [State.respond_cfg, State.releaseCore_cfg]
  case host => rw [State.respond_host, State.releaseCore_host]

/-- Settles O18: the second RELEASE finds the port released, and sends and programs what the first one did. -/
theorem releaseIsIdempotent : Obligations.ReleaseIsIdempotent := by
  intro s p hport hv
  obtain ⟨e, he⟩ := (s.cfg.hasPort_eq_true p).1 hport
  obtain ⟨t, ht⟩ : ∃ t, t = (s.releaseCore p e).respond 0#32 := ⟨_, rfl⟩
  have hfirst : exec (.release p) s = .next t := by
    rw [ht]
    exact execRelease_of_constructed s ⟨he, hv⟩
  have hc : t.Constructed p e := ⟨by simp [ht, he], by simp [ht, State.releaseCore_ctxOf, hv]⟩
  have hreleased : t.Released p e := by
    rw [ht]
    exact (s.released_releaseCore p e).respond _
  have hlatch : (t.releaseCore p e).latch = t.latch := hreleased.latch_releaseCore
  have hword : (s.releaseCore p e).latch = t.latch := by rw [ht, State.respond_latch]
  refine ⟨t, (t.releaseCore p e).respond 0#32, hfirst, execRelease_of_constructed t hc, ?latch, ?ctx, ?pins, ?sr, ?q,
    ?duty, transmitEvents t.latch ++ [Event.pwmSet p .A 0#8, Event.pwmSet p .B 0#8], ?length, ?firstOut, ?secondOut⟩
  case latch => rw [State.respond_latch, hlatch]
  case ctx => exact fun p' => by rw [State.respond_ctxOf, hreleased.ctxOf_releaseCore]
  case pins =>
    have hpins : t.pins = (s.releaseCore p e).pins := by rw [ht, State.respond_pins]
    rw [State.respond_pins, State.releaseCore_pins, hlatch, hpins, State.releaseCore_pins, hword]
  case sr =>
    have hsr : t.env.sr = t.latch := by rw [ht, State.respond_env, State.releaseCore_sr, State.respond_latch]
    rw [State.respond_env, State.releaseCore_sr, hlatch, hsr]
  case q =>
    have hq : t.env.q = t.latch := by rw [ht, State.respond_env, State.releaseCore_q, State.respond_latch]
    rw [State.respond_env, State.releaseCore_q, hlatch, hq]
  case duty =>
    intro p' chan
    rw [State.respond_env, State.releaseCore_duty]
    split
    · next heq => rw [ht, State.respond_env, State.releaseCore_duty, if_pos heq]
    · rfl
  case length => rfl
  case firstOut => rw [← List.append_assoc, ← hword, ← State.releaseCore_out, ht, State.respond_out]
  case secondOut => rw [State.respond_out, State.releaseCore_out, hlatch, List.append_assoc]

end Sys2Proof.Machine
end

section
/-! Rules R162, R164, R201 (e): the position after any number of steps is the position before them plus or minus the
sum of their deltas, round the cycle; in the styles without a tail loop that sum has a closed form. -/

namespace Sys2Proof.Machine

section
variable (c : Config) (d : Direction) (st : Style)

/-- The position one step moves to from `x` (rules R162, R164). -/
def stepPos (x : Nat) : Nat := newPos c x d (delta c st x)

/-- The sum of the deltas of `n` steps from `x`. -/
def deltaSum (x n : Nat) : Nat := ∑ i ∈ Finset.range n, delta c st ((stepPos c d st)^[i] x)

/-- The position `total` units on from `x`, round the cycle; backward, `n` turns of the cycle bound `total`. -/
def travel (x n total : Nat) : Nat :=
  match d with
  | .forward => (x + total) % c.cycle
  | .backward => (x + c.cycle * n - total) % c.cycle

/-- One step more, of at most a turn, adds its delta to the way travelled (rule R164). -/
theorem newPos_travel {x n total k : Nat} (htotal : total ≤ c.cycle * n) (hk : k ≤ c.cycle) :
    newPos c (travel c d x n total) d k = travel c d x (n + 1) (total + k) := by
  cases d with
  | forward => simp only [newPos, travel, Nat.mod_add_mod, Nat.add_assoc]
  | backward =>
    have hturn : x + c.cycle * (n + 1) - (total + k) = x + c.cycle * n - total + (c.cycle - k) := by
      rw [Nat.mul_succ]
      omega
    simp only [newPos, travel, hturn, Nat.add_sub_assoc hk, Nat.mod_add_mod]

theorem delta_le_cycle (x : Nat) : delta c st x ≤ c.cycle := by
  obtain ⟨-, hle⟩ := delta_bounds c st x
  rw [c.cycle_eq]
  omega

/-- One step more adds its delta to the sum. -/
theorem deltaSum_succ (x n : Nat) :
    deltaSum c d st x (n + 1) = deltaSum c d st x n + delta c st ((stepPos c d st)^[n] x) :=
  Finset.sum_range_succ _ n

theorem deltaSum_le (x n : Nat) : deltaSum c d st x n ≤ c.cycle * n := by
  induction n with
  | zero => exact Nat.le_refl 0
  | succ n ih =>
    rw [deltaSum_succ, Nat.mul_succ]
    exact Nat.add_le_add ih (delta_le_cycle c st _)

/-- From a position of the cycle, `n` steps in any style travel the sum of their deltas (rule R201 (e)). -/
theorem iterate_stepPos {x : Nat} (hx : x < c.cycle) (n : Nat) :
    (stepPos c d st)^[n] x = travel c d x n (deltaSum c d st x n) := by
  induction n with
  | zero => cases d <;> exact (Nat.mod_eq_of_lt hx).symm
  | succ n ih =>
    have htravel := newPos_travel c d (x := x) (deltaSum_le c d st x n) (delta_le_cycle c st ((stepPos c d st)^[n] x))
    rw [Function.iterate_succ_apply', deltaSum_succ, ← htravel, ← ih, stepPos]

/-- After one step Single and Double are aligned to their parity, and the next delta is `M` (rules R165, R166). -/
theorem delta_stepPos (hst : st = .single ∨ st = .double) (x : Nat) : delta c st (stepPos c d st x) = c.M := by
  rcases hst with rfl | rfl
  · rw [delta_single, stepPos, halfIndex_after_single, c.M_eq_two_H]
  · rw [delta_double, stepPos, halfIndex_after_double, c.M_eq_two_H]

/-- Single and Double: the first delta, then `M` for each further step. -/
theorem deltaSum_of_aligning (hst : st = .single ∨ st = .double) (x n : Nat) :
    deltaSum c d st x (n + 1) = delta c st x + n * c.M := by
  have hlater : ∀ i ∈ Finset.range n, delta c st ((stepPos c d st)^[i + 1] x) = c.M := fun i _ => by
    rw [Function.iterate_succ_apply', delta_stepPos c d st hst]
  rw [deltaSum, Finset.sum_range_succ', Finset.sum_congr rfl hlater, Finset.sum_const, Finset.card_range, smul_eq_mul,
    Nat.add_comm]
  rfl

/-- Single: the first step is a half step where the index is odd, every other one is `M`. -/
theorem deltaSum_single (x n : Nat) : deltaSum c d .single x n =
    if halfIndex c x % 2 = 0 ∨ n = 0 then n * c.M else c.H + (n - 1) * c.M := by
  cases n with
  | zero => simp [deltaSum]
  | succ n =>
    rw [deltaSum_of_aligning c d .single (.inl rfl)]
    rcases Nat.mod_two_eq_zero_or_one (halfIndex c x) with h | h <;> simp [delta, h, Nat.succ_mul, Nat.add_comm]

/-- Double: the first step is a half step where the index is even, every other one is `M`. -/
theorem deltaSum_double (x n : Nat) : deltaSum c d .double x n =
    if ¬ halfIndex c x % 2 = 0 ∨ n = 0 then n * c.M else c.H + (n - 1) * c.M := by
  cases n with
  | zero => simp [deltaSum]
  | succ n =>
    rw [deltaSum_of_aligning c d .double (.inr rfl)]
    rcases Nat.mod_two_eq_zero_or_one (halfIndex c x) with h | h <;> simp [delta, h, Nat.succ_mul, Nat.add_comm]

/-- Interleave: `H` for each step. -/
theorem deltaSum_interleave (x n : Nat) : deltaSum c d .interleave x n = n * c.H := by
  simp [deltaSum, delta]

end

/-- The position after the main loop is that of so many steps. -/
theorem State.mainLoop_posOf (p : Code) (e : PortEntry) (d : Direction) (st : Style) (us n : Nat) (s : State) :
    (State.mainLoop p e d st us n s).posOf p = (stepPos s.cfg d st)^[n] (s.posOf p) := by
  induction n generalizing s with
  | zero => rfl
  | succ n ih =>
    rw [State.mainLoop_succ, ih, State.pacedStep_cfg, State.pacedStep_posOf, Function.iterate_succ_apply]
    rfl

/-- STEP in a style without a tail loop is the main loop, `count` iterations of it (rules R193, R194). -/
theorem execStep_of_ne_microstep (s : State) {p dir style : Code} {e : PortEntry} {d : Direction} {st : Style}
    (he : s.cfg.coilMap? p = some e) (hv : (s.ctxOf p).valid = true) (hd : directionOf dir = some d)
    (hs : styleOf style = some st) (hst : st ≠ .microstep) (count : Word) :
    execStep p dir style count s =
      .next ((State.mainLoop p e d st (stepDelay s.cfg st (s.ctxOf p).usps.toNat) count.toNat s).respond 0#32) := by
  have hcount : stepCount s.cfg st count.toNat = count.toNat := by
    cases st with
    | single | double | interleave => rfl
    | microstep => exact absurd rfl hst
  rw [execStep_of s he hv hd hs, if_neg hst, hcount, State.tailLoop]

/-- Settles O21: the steps travel the sum of their deltas, which is read off for each style. -/
theorem stepEndsAtTheClosedFormPosition : Obligations.StepEndsAtTheClosedFormPosition := by
  intro s p dir style count e d st he hv hd hs hst hpos n even total
  refine ⟨_, execStep_of_ne_microstep s he hv hd hs hst count, ?_⟩
  have htotal : deltaSum s.cfg d st (s.posOf p) n = total := by
    cases st with
    | single => exact deltaSum_single ..
    | double => exact deltaSum_double ..
    | interleave => exact deltaSum_interleave ..
    | microstep => exact absurd rfl hst
  rw [State.respond_posOf, State.mainLoop_posOf, iterate_stepPos _ _ _ hpos, htotal]
  cases d <;> rfl

end Sys2Proof.Machine
end

section
/-! Rules R168, R170, R193, R197, R201: STEP's loops. Every iteration leaves the port in the phase of its position, and
the loops take none exactly when the count is 0 and, in Microstep, the position is one of rest. -/

namespace Sys2Proof.Machine

/-- In `u` the port's latch bits, its duties and their outputs are those of its position in the style, the rest of the
latch word is that of `s`, and the pins stand as a TRANSMIT leaves them (rules R32, R168, R170). -/
structure State.InPhase (s : State) (p : Code) (e : PortEntry) (st : Style) (u : State) : Prop where
  cfg : u.cfg = s.cfg
  latch : u.latch = (s.latch &&& ~~~e.portMask) ||| e.enBits (enables s.cfg st (u.posOf p))
  ocrA : (u.ctxOf p).ocrA = (duty s.cfg (u.posOf p)).1
  ocrB : (u.ctxOf p).ocrB = (duty s.cfg (u.posOf p)).2
  outputs : ∀ chan, u.env.duty p chan = (u.ctxOf p).ocr chan
  pins : u.pins = { serLatch := true, serData := u.latch.getLsbD 0, serClk := true }

section
variable {s u : State} {p : Code} {e : PortEntry} {d : Direction} {st : Style} {us : Nat}

/-- The context after an iteration: VALID, SPR and USPS stay. -/
theorem State.pacedStep_ctxOf (s : State) (p : Code) (e : PortEntry) (d : Direction) (st : Style) (us : Nat) :
    (s.pacedStep p e d st us).ctxOf p = { s.ctxOf p with
      pos := BitVec.ofNat 32 (s.nextPos p d st)
      ocrA := (duty s.cfg (s.nextPos p d st)).1
      ocrB := (duty s.cfg (s.nextPos p d st)).2
      rem := BitVec.ofNat 11 (paceRem (s.ctxOf p).rem.toNat us) } := by
  rw [State.pacedStep, State.pace_ctxOf, if_pos rfl, State.oneStepCore_ctxOf, if_pos rfl]

/-- An iteration from a latch word that agrees with that of `s` outside the port's bits ends in phase. -/
theorem State.inPhase_pacedStep (hcfg : u.cfg = s.cfg)
    (houtside : u.latch &&& ~~~e.portMask = s.latch &&& ~~~e.portMask) :
    s.InPhase p e st (u.pacedStep p e d st us) where
  cfg := by rw [State.pacedStep_cfg, hcfg]
  latch := by rw [State.pacedStep_latch, State.oneStepCore_latch, State.pacedStep_posOf, houtside, hcfg]
  ocrA := by rw [State.pacedStep_ctxOf, State.pacedStep_posOf, hcfg]
  ocrB := by rw [State.pacedStep_ctxOf, State.pacedStep_posOf, hcfg]
  outputs chan := by
    rw [State.pacedStep_ctxOf, State.pacedStep, State.pace_env, State.oneStepCore_duty, if_pos rfl,
      State.oneStepCore_ctxOf, if_pos rfl]
    cases chan <;> rfl
  pins := by rw [State.pacedStep_latch, State.pacedStep, State.pace_pins, State.oneStepCore_pins]

/-- So does the first iteration from `s` itself. -/
theorem State.inPhase_first : s.InPhase p e st (s.pacedStep p e d st us) := State.inPhase_pacedStep rfl rfl

/-- So does every further one. -/
theorem State.InPhase.pacedStep (h : s.InPhase p e st u) : s.InPhase p e st (u.pacedStep p e d st us) :=
  State.inPhase_pacedStep h.cfg (by rw [h.latch, e.enBits_outside])

/-- A main loop of at least one iteration ends in phase. -/
theorem State.inPhase_mainLoop {n : Nat} (hn : n ≠ 0) : s.InPhase p e st (State.mainLoop p e d st us n s) := by
  cases n with
  | zero => exact absurd rfl hn
  | succ n => exact State.mainLoop_induct _ p e d st us (fun _ => State.InPhase.pacedStep) n State.inPhase_first

/-- The tail loop keeps the phase. -/
theorem State.InPhase.tailLoop (h : s.InPhase p e .microstep u) (n : Nat) :
    s.InPhase p e .microstep (State.tailLoop p e d us n u) :=
  State.tailLoop_induct _ p e d us (fun _ => State.InPhase.pacedStep) n h

/-- A position of rest, where the tail loop stops (rule R197). -/
def AtRest (c : Config) (x : Nat) : Prop := x = 0 ∨ x = c.M

/-- At rest the tail loop takes no iteration. -/
theorem State.tailLoop_of_atRest (h : AtRest s.cfg (s.posOf p)) (n : Nat) : State.tailLoop p e d us n s = s := by
  cases n with
  | zero => rfl
  | succ n => rw [State.tailLoop, if_neg fun hmoving => h.elim hmoving.1 hmoving.2]

/-- Elsewhere it takes at least one, and ends in phase. -/
theorem State.inPhase_tailLoop (h : ¬ AtRest s.cfg (s.posOf p)) {n : Nat} (hn : n ≠ 0) :
    s.InPhase p e .microstep (State.tailLoop p e d us n s) := by
  cases n with
  | zero => exact absurd rfl hn
  | succ n =>
    rw [State.tailLoop, if_pos (not_or.1 h)]
    exact State.inPhase_first.tailLoop n

end

/-- The tail loop has nothing to do exactly at rest (rule R197). -/
theorem tailCount_eq_zero_iff (c : Config) (d : Direction) {x : Nat} (hx : x < c.cycle) :
    tailCount c d x = 0 ↔ AtRest c x := by
  rw [c.cycle_eq] at hx
  unfold AtRest
  cases d <;> rw [tailCount] <;> split_ifs <;> omega

/-- No microstep moves nowhere. -/
theorem microstepsFrom_zero {c : Config} (d : Direction) {x : Nat} (hx : x < c.cycle) : microstepsFrom c d x 0 = x := by
  cases d <;> exact Nat.mod_eq_of_lt hx

/-- STEP takes no step exactly when the count is 0 and, in Microstep, the position is one of rest. -/
theorem stepsTaken_eq_zero_iff (c : Config) (d : Direction) (st : Style) {x : Nat} (hx : x < c.cycle) (count : Nat) :
    stepsTaken c d st x count = 0 ↔ count = 0 ∧ (st = .microstep → AtRest c x) := by
  have hM := c.M_pos
  cases st with
  | single | double | interleave => simp [stepsTaken]
  | microstep =>
    rw [stepsTaken, Nat.add_eq_zero_iff, Nat.mul_eq_zero, or_iff_left hM.ne']
    refine and_congr_right fun hcount => ?_
    rw [hcount, Nat.zero_mul, microstepsFrom_zero d hx, tailCount_eq_zero_iff c d hx]
    simp

/-- The trip count of the main loop is 0 exactly for the count 0 (rule R194). -/
theorem stepCount_eq_zero_iff (c : Config) (st : Style) (count : Nat) : stepCount c st count = 0 ↔ count = 0 := by
  have hM := c.M_pos
  cases st with
  | single | double | interleave => rfl
  | microstep => rw [stepCount, Nat.mul_eq_zero, or_iff_left hM.ne']

/-- The state STEP's two loops leave, before the answer (rule R193). -/
def State.stepLoops (s : State) (p : Code) (e : PortEntry) (d : Direction) (st : Style) (count : Nat) : State :=
  State.tailLoop p e d (stepDelay s.cfg st (s.ctxOf p).usps.toNat) (if st = .microstep then s.cfg.cycle else 0)
    (State.mainLoop p e d st (stepDelay s.cfg st (s.ctxOf p).usps.toNat) (stepCount s.cfg st count) s)

section
variable (s : State) (p : Code) (e : PortEntry) (d : Direction) (st : Style) (count : Nat)

/-- Loops that take no step change nothing. -/
theorem State.stepLoops_of_none (hx : s.posOf p < s.cfg.cycle)
    (h : stepsTaken s.cfg d st (s.posOf p) count = 0) : s.stepLoops p e d st count = s := by
  obtain ⟨rfl, hrest⟩ := (stepsTaken_eq_zero_iff s.cfg d st hx count).1 h
  rw [State.stepLoops, (stepCount_eq_zero_iff s.cfg st 0).2 rfl, State.mainLoop_zero]
  split
  · next hst => exact State.tailLoop_of_atRest (hrest hst) _
  · rfl

/-- Loops that take a step end in the phase of the position they reach. -/
theorem State.inPhase_stepLoops (hx : s.posOf p < s.cfg.cycle)
    (h : stepsTaken s.cfg d st (s.posOf p) count ≠ 0) : s.InPhase p e st (s.stepLoops p e d st count) := by
  rw [State.stepLoops]
  by_cases hcount : count = 0
  · have hmoving : st = .microstep ∧ ¬ AtRest s.cfg (s.posOf p) := by
      simpa [stepsTaken_eq_zero_iff s.cfg d st hx, hcount] using h
    obtain ⟨rfl, hrest⟩ := hmoving
    rw [(stepCount_eq_zero_iff s.cfg _ count).2 hcount, State.mainLoop_zero, if_pos rfl]
    exact State.inPhase_tailLoop hrest s.cfg.cycle_pos.ne'
  · have hmain : stepCount s.cfg st count ≠ 0 := mt (stepCount_eq_zero_iff s.cfg st count).1 hcount
    split
    · next hst =>
      subst hst
      exact (State.inPhase_mainLoop hmain).tailLoop _
    · exact State.inPhase_mainLoop hmain

/-- The loops leave VALID, SPR and USPS. -/
theorem State.stepLoops_setup :
    ((s.stepLoops p e d st count).ctxOf p).valid = (s.ctxOf p).valid ∧
      ((s.stepLoops p e d st count).ctxOf p).spr = (s.ctxOf p).spr ∧
      ((s.stepLoops p e d st count).ctxOf p).usps = (s.ctxOf p).usps :=
  State.loops_induct s p e d st _
    (P := fun u => (u.ctxOf p).valid = (s.ctxOf p).valid ∧ (u.ctxOf p).spr = (s.ctxOf p).spr ∧
      (u.ctxOf p).usps = (s.ctxOf p).usps)
    (fun u st' hu => by rwa [State.pacedStep_ctxOf]) _ _ ⟨rfl, rfl, rfl⟩

end

/-- Settles O22: the loops take no step and change nothing, or end in phase; the frame is that of every command on the
port. -/
theorem stepEndsInThePhaseOfItsPosition : Obligations.StepEndsInThePhaseOfItsPosition := by
  intro s p dir style count e d st he hv hd hs hx
  have hexec : exec (.step p dir style count) s = .next ((s.stepLoops p e d st count.toNat).respond 0#32) :=
    execStep_of s he hv hd hs count
  obtain ⟨-, hbusy, hhost, hcfg⟩ := (exec_answered hexec).port_frame
  obtain ⟨hvalid, hspr, husps⟩ := s.stepLoops_setup p e d st count.toNat
  refine ⟨_, hexec, hvalid.trans hv, hspr, husps, (exec_onlyPort rfl hexec).ctx, hcfg, hhost, State.respond_rsp _ _,
    hbusy, ?_⟩
  split
  · next hnone => rw [s.stepLoops_of_none p e d st count.toNat hx hnone]; rfl
  · next hsome =>
    have hphase := s.inPhase_stepLoops p e d st count.toNat hx hsome
    exact ⟨hphase.latch, hphase.ocrA, hphase.ocrB, hphase.outputs .A, hphase.outputs .B, hphase.pins⟩

end Sys2Proof.Machine
end

section
/-! Rules R26, R27, R185: the pacing registers never reach the motor. Two states that differ only in them and in the
delay requests of `OUT` stay so under every operation of the block, so under every command; a PACE on one side alone
makes no other difference. -/

namespace Sys2Proof.Machine

/-! Contexts and states that differ only in their pacing. -/

theorem Ctx.SameButPacing.refl (x : Ctx) : x.SameButPacing x := ⟨rfl, rfl, rfl, rfl, rfl⟩

/-- The same duty written to both contexts. -/
theorem Ctx.SameButPacing.setOcr {x y : Ctx} (h : x.SameButPacing y) (chan : Channel) (v : Byte) :
    (x.setOcr chan v).SameButPacing (y.setOcr chan v) := by
  obtain ⟨hvalid, hspr, hpos, hocrA, hocrB⟩ := h
  cases chan with
  | A => exact ⟨hvalid, hspr, hpos, rfl, hocrB⟩
  | B => exact ⟨hvalid, hspr, hpos, hocrA, rfl⟩

section
variable {s t u v : State}

theorem State.SameButPacing.symm (h : s.SameButPacing u) : u.SameButPacing s where
  latch := h.latch.symm
  ctx p := by
    obtain ⟨hvalid, hspr, hpos, hocrA, hocrB⟩ := h.ctx p
    exact ⟨hvalid.symm, hspr.symm, hpos.symm, hocrA.symm, hocrB.symm⟩
  pins := h.pins.symm
  out := h.out.symm
  busy := h.busy.symm
  rsp := h.rsp.symm
  cfg := h.cfg.symm
  env := h.env.symm
  host := h.host.symm

theorem State.SameButPacing.trans (h : s.SameButPacing t) (k : t.SameButPacing u) : s.SameButPacing u where
  latch := h.latch.trans k.latch
  ctx p := by
    obtain ⟨hvalid, hspr, hpos, hocrA, hocrB⟩ := h.ctx p
    obtain ⟨kvalid, kspr, kpos, kocrA, kocrB⟩ := k.ctx p
    exact ⟨hvalid.trans kvalid, hspr.trans kspr, hpos.trans kpos, hocrA.trans kocrA, hocrB.trans kocrB⟩
  pins := h.pins.trans k.pins
  out := h.out.trans k.out
  busy := h.busy.trans k.busy
  rsp := h.rsp.trans k.rsp
  cfg := h.cfg.trans k.cfg
  env := h.env.trans k.env
  host := h.host.trans k.host

/-! What the checks, the position update and SETSPEED's divisor read is no pacing register. -/

theorem State.SameButPacing.valid (h : s.SameButPacing u) (p : Code) : (s.ctxOf p).valid = (u.ctxOf p).valid := by
  obtain ⟨hvalid, -⟩ := h.ctx p
  exact hvalid

theorem State.SameButPacing.spr (h : s.SameButPacing u) (p : Code) : (s.ctxOf p).spr = (u.ctxOf p).spr := by
  obtain ⟨-, hspr, -⟩ := h.ctx p
  exact hspr

theorem State.SameButPacing.posOf (h : s.SameButPacing u) (p : Code) : s.posOf p = u.posOf p := by
  obtain ⟨-, -, hpos, -⟩ := h.ctx p
  exact congrArg BitVec.toNat hpos

theorem State.SameButPacing.nextPos (h : s.SameButPacing u) (p : Code) (dir : Direction) (style : Style) :
    s.nextPos p dir style = u.nextPos p dir style := by
  simp only [State.nextPos, h.cfg, h.posOf]

theorem State.SameButPacing.checkPort (h : s.SameButPacing u) (p : Code) : s.checkPort p = u.checkPort p := by
  simp only [State.checkPort, h.cfg]

theorem State.SameButPacing.checkConstructed (h : s.SameButPacing u) (p : Code) :
    s.checkConstructed p = u.checkConstructed p := by
  simp only [State.checkConstructed, h.checkPort, h.valid]

theorem State.SameButPacing.checkMotion (h : s.SameButPacing u) (p dir style : Code) :
    s.checkMotion p dir style = u.checkMotion p dir style := by
  simp only [State.checkMotion, h.checkConstructed]

/-! The operations of the block. -/

theorem State.SameButPacing.raise (h : s.SameButPacing u) (err : CmdError) :
    (s.raise err).SameButPacing (u.raise err) :=
  { h with busy := rfl, rsp := rfl }

theorem State.SameButPacing.respond (h : s.SameButPacing u) (w : Word) : (s.respond w).SameButPacing (u.respond w) :=
  { h with busy := rfl, rsp := rfl }

/-- The same function applied to both latch words. -/
theorem State.SameButPacing.mapLatch (h : s.SameButPacing u) (f : Byte → Byte) :
    State.SameButPacing { s with latch := f s.latch } { u with latch := f u.latch } :=
  { h with latch := congrArg f h.latch }

/-- One context written on both sides, the two differing in their pacing only. -/
theorem State.SameButPacing.setCtx (h : s.SameButPacing u) (p : Code) {x y : Ctx} (hxy : x.SameButPacing y) :
    (s.setCtx p x).SameButPacing (u.setCtx p y) :=
  { h with
    ctx := fun p' => by
      rw [State.ctxOf_setCtx, State.ctxOf_setCtx]
      split
      · exact hxy
      · exact h.ctx p' }

theorem State.SameButPacing.emit (h : s.SameButPacing u) (e : Event) : (s.emit e).SameButPacing (u.emit e) :=
  { h with
    pins := by rw [State.emit_pins, State.emit_pins, h.pins]
    out := by rw [State.emit_out, State.emit_out, List.filter_append, List.filter_append, h.out]
    env := by rw [State.emit_env, State.emit_env, h.env, h.pins] }

theorem State.SameButPacing.emitAll (h : s.SameButPacing u) (es : List Event) :
    (s.emitAll es).SameButPacing (u.emitAll es) := by
  induction es generalizing s u with
  | nil => exact h
  | cons e es ih => exact ih (h.emit e)

theorem State.SameButPacing.transmit (h : s.SameButPacing u) : s.transmit.SameButPacing u.transmit := by
  rw [State.transmit, State.transmit, h.latch]
  exact h.emitAll _

theorem State.SameButPacing.programDuty (h : s.SameButPacing u) (p : Code) (chan : Channel) (d : Byte) :
    (s.programDuty p chan d).SameButPacing (u.programDuty p chan d) :=
  (h.setCtx p ((h.ctx p).setOcr chan d)).emit _

theorem State.SameButPacing.setPos (h : s.SameButPacing u) (p : Code) (pos : Nat) :
    (s.setPos p pos).SameButPacing (u.setPos p pos) := by
  obtain ⟨hvalid, hspr, -, hocrA, hocrB⟩ := h.ctx p
  exact h.setCtx p ⟨hvalid, hspr, rfl, hocrA, hocrB⟩

theorem State.SameButPacing.oneStepCore (h : s.SameButPacing u) (p : Code) (e : PortEntry) (dir : Direction)
    (style : Style) : (s.oneStepCore p e dir style).SameButPacing (u.oneStepCore p e dir style) := by
  simp only [State.oneStepCore, h.nextPos, h.cfg]
  have hlatch := (h.setPos p (u.nextPos p dir style)).mapLatch fun w =>
    (w &&& ~~~e.portMask) ||| e.enBits (enables u.cfg style (u.nextPos p dir style))
  exact (hlatch.transmit.programDuty p .A _).programDuty p .B _

/-- PACE writes the remainder and requests delays, and that is all a state differs in after it (rule R199). -/
theorem State.sameButPacing_pace (s : State) (p : Code) (us : Nat) : s.SameButPacing (s.pace p us) where
  latch := (s.pace_latch p us).symm
  ctx p' := by
    rw [State.pace_ctxOf]
    split
    · next h => subst h; exact Ctx.SameButPacing.refl _
    · exact Ctx.SameButPacing.refl _
  pins := (s.pace_pins p us).symm
  out := by
    have hdelays : (paceEvents (s.ctxOf p).rem.toNat us).filter (fun e => !e.isDelay) = [] := by
      refine List.filter_eq_nil_iff.2 fun e he => ?_
      obtain ⟨ms, rfl⟩ := paceEvents_delay _ _ e he
      simp [Event.isDelay]
    rw [State.pace_out, List.filter_append, hdelays, List.append_nil]
  busy := (s.pace_busy p us).symm
  rsp := (s.pace_rsp p us).symm
  cfg := (s.pace_cfg p us).symm
  env := (s.pace_env p us).symm
  host := (s.pace_host p us).symm

/-- So two iterations may pace with different delays, from different remainders. -/
theorem State.SameButPacing.pacedStep (h : s.SameButPacing u) (p : Code) (e : PortEntry) (dir : Direction)
    (style : Style) (us us' : Nat) :
    (s.pacedStep p e dir style us).SameButPacing (u.pacedStep p e dir style us') :=
  ((State.sameButPacing_pace _ p us).symm.trans (h.oneStepCore p e dir style)).trans
    (State.sameButPacing_pace _ p us')

theorem State.SameButPacing.mainLoop (h : s.SameButPacing u) (p : Code) (e : PortEntry) (dir : Direction)
    (style : Style) (us us' n : Nat) :
    (State.mainLoop p e dir style us n s).SameButPacing (State.mainLoop p e dir style us' n u) := by
  induction n generalizing s u with
  | zero => exact h
  | succ n ih => exact ih (h.pacedStep p e dir style us us')

/-- The tail loop's guard reads the position and the parameters, the same on both sides (rule R197). -/
theorem State.SameButPacing.tailLoop (h : s.SameButPacing u) (p : Code) (e : PortEntry) (dir : Direction)
    (us us' n : Nat) : (State.tailLoop p e dir us n s).SameButPacing (State.tailLoop p e dir us' n u) := by
  induction n generalizing s u with
  | zero => exact h
  | succ n ih =>
    rw [State.tailLoop, State.tailLoop, h.posOf, h.cfg]
    split
    · exact ih (h.pacedStep p e dir .microstep us us')
    · exact h

end

/-! The commands. -/

/-- A command that answers next states, and from states that differ in their pacing only, such states again. -/
def IgnoresPacing (command : State → Host.Outcome State Fault Refusal) : Prop :=
  ∀ s u : State, s.SameButPacing u → ∃ t v, command s = .next t ∧ command u = .next v ∧ t.SameButPacing v

theorem execNew_ignoresPacing (p : Code) (spr : Word) : IgnoresPacing (execNew p spr) := fun s u h => by
  simp only [execNew, h.checkPort]
  cases u.checkPort p with
  | error err => exact ⟨_, _, rfl, rfl, h.raise err⟩
  | ok e =>
    obtain ⟨-, -, -, hocrA, hocrB⟩ := h.ctx p
    refine ⟨_, _, rfl, rfl, (h.setCtx p ?_).respond 0#32⟩
    exact ⟨rfl, rfl, rfl, hocrA, hocrB⟩

/-- SETSPEED writes pacing registers only (rule R189). -/
theorem execSetspeed_ignoresPacing (p : Code) (rpm : Word) : IgnoresPacing (execSetspeed p rpm) := fun s u h => by
  simp only [execSetspeed, h.checkConstructed, h.spr]
  cases u.checkConstructed p with
  | error err => exact ⟨_, _, rfl, rfl, h.raise err⟩
  | ok e =>
    dsimp only
    split
    · exact ⟨_, _, rfl, rfl, h.raise .divByZero⟩
    · obtain ⟨hvalid, -, hpos, hocrA, hocrB⟩ := h.ctx p
      refine ⟨_, _, rfl, rfl, (h.setCtx p ?_).respond 0#32⟩
      exact ⟨hvalid, rfl, hpos, hocrA, hocrB⟩

theorem execOnestep_ignoresPacing (p dir style : Code) : IgnoresPacing (execOnestep p dir style) := fun s u h => by
  simp only [execOnestep, h.checkMotion, h.nextPos]
  cases u.checkMotion p dir style with
  | error err => exact ⟨_, _, rfl, rfl, h.raise err⟩
  | ok r => exact ⟨_, _, rfl, rfl, (h.oneStepCore p _ _ _).respond _⟩

/-- The two sides' delays may differ, but not their trip counts (rules R194, R195). -/
theorem execStep_ignoresPacing (p dir style : Code) (count : Word) : IgnoresPacing (execStep p dir style count) :=
  fun s u h => by
  simp only [execStep, h.checkMotion, h.cfg]
  cases u.checkMotion p dir style with
  | error err => exact ⟨_, _, rfl, rfl, h.raise err⟩
  | ok r =>
    obtain ⟨e, d, st⟩ := r
    have hmain := h.mainLoop p e d st (stepDelay u.cfg st (s.ctxOf p).usps.toNat)
      (stepDelay u.cfg st (u.ctxOf p).usps.toNat) (stepCount u.cfg st count.toNat)
    cases st with
    | microstep => exact ⟨_, _, rfl, rfl, (hmain.tailLoop p e d _ _ _).respond 0#32⟩
    | single | double | interleave => exact ⟨_, _, rfl, rfl, hmain.respond 0#32⟩

theorem execRelease_ignoresPacing (p : Code) : IgnoresPacing (execRelease p) := fun s u h => by
  simp only [execRelease, h.checkConstructed]
  cases u.checkConstructed p with
  | error err => exact ⟨_, _, rfl, rfl, h.raise err⟩
  | ok e =>
    have hlatch := h.mapLatch (· &&& ~~~e.portMask)
    exact ⟨_, _, rfl, rfl, ((hlatch.transmit.programDuty p .A 0#8).programDuty p .B 0#8).respond 0#32⟩

theorem execLatchw_ignoresPacing (mask value : Byte) : IgnoresPacing (execLatchw mask value) := fun _ _ h =>
  have hlatch := h.mapLatch fun w => (w &&& ~~~mask) ||| (value &&& mask)
  ⟨_, _, rfl, rfl, hlatch.transmit.respond 0#32⟩

/-- No command carries the pacing registers to anything else (rule R185). -/
theorem exec_ignoresPacing (i : Instr) : IgnoresPacing (exec i) := by
  cases i with
  | new port spr => exact execNew_ignoresPacing port spr
  | setspeed port rpm => exact execSetspeed_ignoresPacing port rpm
  | onestep port dir style => exact execOnestep_ignoresPacing port dir style
  | step port dir style count => exact execStep_ignoresPacing port dir style count
  | release port => exact execRelease_ignoresPacing port
  | latchw mask value => exact execLatchw_ignoresPacing mask value

/-- Settles O45: every operation of the block takes states that differ in their pacing only to such states. -/
theorem pacingNeverReachesTheMotor : Obligations.PacingNeverReachesTheMotor := by
  intro s u s' u' i h hs hu
  obtain ⟨t, v, ht, hv, htv⟩ := exec_ignoresPacing i s u h
  obtain rfl : t = s' := Host.Outcome.next.inj (ht.symm.trans hs)
  obtain rfl : v = u' := Host.Outcome.next.inj (hv.symm.trans hu)
  exact htv

end Sys2Proof.Machine
end

section
/-! Rules R186, R189, R190: NEW and SETSPEED, which write the context of their port and nothing else of the block. -/

namespace Sys2Proof.Machine

section
variable (s : State) {p : Code} {spr rpm : Word} {err : CmdError}

/-- NEW is refused with the error that applies to it (rule R213). -/
theorem execNew_of_refusal (h : s.refusal (.new p spr) = some err) : execNew p spr s = .next (s.raise err) := by
  rcases s.checkPort_cases p with ⟨e, he, -⟩ | ⟨hn, hc⟩
  · simp [State.refusal, Config.hasPort, he] at h
  · obtain rfl : CmdError.badPort = err := by simpa [State.refusal, Config.hasPort, hn] using h
    rw [execNew, hc]

/-- The errors of SETSPEED: those of RELEASE first, then the division by zero (rules R220, R221). -/
theorem State.refusal_setspeed : s.refusal (.setspeed p rpm) =
    (s.refusal (.release p)).or
      (if (s.ctxOf p).spr.toNat * rpm.toNat = 0 then some .divByZero else none) := by
  simp only [State.refusal]
  split
  · rfl
  · split <;> rfl

/-- SETSPEED is refused with the error that applies to it (rule R213). -/
theorem execSetspeed_of_refusal (h : s.refusal (.setspeed p rpm) = some err) :
    execSetspeed p rpm s = .next (s.raise err) := by
  rw [State.refusal_setspeed] at h
  cases hr : s.refusal (.release p) with
  | some first =>
    obtain rfl : first = err := by simpa [hr] using h
    rw [execSetspeed, s.checkConstructed_of_refusal hr]
  | none =>
    rw [hr, Option.none_or] at h
    obtain ⟨hd, rfl⟩ : (s.ctxOf p).spr.toNat * rpm.toNat = 0 ∧ CmdError.divByZero = err := by simpa using h
    rcases s.checkConstructed_cases p with ⟨e, he, hv, hc⟩ | ⟨hn, -⟩ | ⟨e, he, hv, -⟩
    · rw [execSetspeed, hc]
      exact if_pos hd
    · simp [State.refusal, Config.hasPort, hn] at hr
    · simp [State.refusal, Config.hasPort, he, hv] at hr

end

/-- Settles O13: the context is written whole, and the answer comes after it. -/
theorem newConstructsTheContext : Obligations.NewConstructsTheContext := by
  intro s p spr
  refine ⟨fun hport => execNew_of_refusal s (err := .badPort) (by rw [State.refusal, if_pos hport]),
    fun hport => ?_⟩
  obtain ⟨e, he⟩ := (s.cfg.hasPort_eq_true p).1 hport
  refine ⟨_, execNew_of s he spr, ?ctx, ?others, rfl, rfl, rfl, rfl, rfl, rfl, rfl, rfl⟩
  case ctx => rw [State.respond_ctxOf, State.ctxOf_setCtx_same]
  case others => exact fun p' hne => by rw [State.respond_ctxOf, State.ctxOf_setCtx_other s hne]

/-- Settles O14: the three errors in the order of rule R220, else the quotient, which fits its register. -/
theorem setspeedStoresTheQuotient : Obligations.SetspeedStoresTheQuotient := by
  intro s p rpm d
  refine ⟨fun hport => execSetspeed_of_refusal s (err := .badPort) ?badPort,
    fun hport hv => execSetspeed_of_refusal s (err := .notConstructed) ?notConstructed,
    fun hport hv hd => execSetspeed_of_refusal s (err := .divByZero) ?divByZero, fun hport hv hd => ?_⟩
  case badPort => simp [State.refusal, hport]
  case notConstructed => simp [State.refusal, hport, hv]
  case divByZero =>
    rw [State.refusal_setspeed, if_pos hd]
    simp [State.refusal, hport, hv]
  obtain ⟨e, he⟩ := (s.cfg.hasPort_eq_true p).1 hport
  refine ⟨_, execSetspeed_of s he hv hd, ?quotient, ?small, ?ctx, ?others, rfl, rfl, rfl, rfl, rfl, rfl, rfl, rfl⟩
  case quotient => rw [State.respond_ctxOf, State.ctxOf_setCtx_same, toNat_quotient]
  case small => exact fun hlt => by rw [State.respond_ctxOf, State.ctxOf_setCtx_same, Nat.div_eq_of_lt hlt]
  case ctx => rw [State.respond_ctxOf, State.ctxOf_setCtx_same]
  case others => exact fun p' hne => by rw [State.respond_ctxOf, State.ctxOf_setCtx_other s hne]

end Sys2Proof.Machine
end

section
/-! Rules R193 to R197: STEP is so many iterations of its step and PACE, in every style: the tail loop is a main loop of
the length that the table of rule R197 gives. -/

namespace Sys2Proof.Machine

/-- STEP is refused with the error that applies to it, the same as for ONESTEP (rules R213, R220). -/
theorem execStep_of_refusal (s : State) {p dir style : Code} {count : Word} {err : CmdError}
    (h : s.refusal (.step p dir style count) = some err) : execStep p dir style count s = .next (s.raise err) := by
  rw [execStep, s.checkMotion_of_refusal (p := p) (dir := dir) (style := style) h]

/-- Settles O19: the checks fail with the first error, and without a tail loop the main loop is all of STEP. -/
theorem stepRepeatsTheStepCountTimes : Obligations.StepRepeatsTheStepCountTimes := by
  intro s p dir style count
  refine ⟨fun err herr => execStep_of_refusal s herr, fun e d st he hv hd hs hst => ?_,
    fun e d st us n => ⟨rfl, rfl⟩⟩
  intro us
  have hus : stepDelay s.cfg st (s.ctxOf p).usps.toNat = us := by
    cases st with
    | single | double | interleave => rfl
    | microstep => exact absurd rfl hst
  rw [← hus]
  exact execStep_of_ne_microstep s he hv hd hs hst count

/-! A STEP after a STEP. -/

section
variable (s : State) (p : Code) (e : PortEntry) (d : Direction) (st : Style) (us : Nat)

/-- Events and an answer do not see each other. -/
theorem State.emitAll_respond (w : Word) (es : List Event) : (s.respond w).emitAll es = (s.emitAll es).respond w := by
  induction es generalizing s with
  | nil => rfl
  | cons ev es ih => exact ih (s.emit ev)

theorem State.transmit_respond (w : Word) : (s.respond w).transmit = s.transmit.respond w :=
  s.emitAll_respond w _

theorem State.programDuty_respond (chan : Channel) (v : Byte) (w : Word) :
    (s.respond w).programDuty p chan v = (s.programDuty p chan v).respond w := rfl

/-- Neither do a step and an answer. -/
theorem State.oneStepCore_respond (w : Word) :
    (s.respond w).oneStepCore p e d st = (s.oneStepCore p e d st).respond w := by
  have hnext : (s.respond w).nextPos p d st = s.nextPos p d st := rfl
  have hlatch : ∀ pos coils, ((s.respond w).setPos p pos).enableCoils e coils =
      ((s.setPos p pos).enableCoils e coils).respond w := fun _ _ => rfl
  simp only [State.oneStepCore, hnext, hlatch, State.respond_cfg, State.transmit_respond, State.programDuty_respond]

theorem State.mainLoop_respond (w : Word) (n : Nat) :
    State.mainLoop p e d st us n (s.respond w) = (State.mainLoop p e d st us n s).respond w := by
  induction n generalizing s with
  | zero => rfl
  | succ n ih =>
    rw [State.mainLoop_succ, State.pacedStep, State.oneStepCore_respond, State.pace_respond, ih]
    rfl

theorem State.mainLoop_cfg (n : Nat) : (State.mainLoop p e d st us n s).cfg = s.cfg :=
  State.mainLoop_induct s p e d st us (P := fun u => u.cfg = s.cfg)
    (fun u hu => by rw [State.pacedStep_cfg, hu]) n rfl

/-- The speed is not written by a step (rule R26). -/
theorem State.mainLoop_usps (n : Nat) :
    ((State.mainLoop p e d st us n s).ctxOf p).usps = (s.ctxOf p).usps :=
  State.mainLoop_induct s p e d st us (P := fun u => (u.ctxOf p).usps = (s.ctxOf p).usps)
    (fun u hu => by rwa [State.pacedStep_ctxOf]) n rfl

end

/-- The port stays one that STEP drives. -/
theorem State.Constructed.mainLoop {s : State} {p : Code} {e : PortEntry} (hc : s.Constructed p e) (d : Direction)
    (st : Style) (us n : Nat) : (State.mainLoop p e d st us n s).Constructed p e :=
  (hc.subOps_loops d st us n 0).keeps_constructed hc

theorem State.Constructed.respond {s : State} {p : Code} {e : PortEntry} (hc : s.Constructed p e) (w : Word) :
    (s.respond w).Constructed p e :=
  ⟨hc.listed, hc.valid⟩

/-- The code of the style with a tail loop (rule R84). -/
theorem styleOf_eq_microstep_iff : ∀ style : Code, styleOf style = some .microstep ↔ style = 4#3 := by decide

/-- STEP from a state that a STEP in a style without a tail loop has left: the iterations go on (rules R193, R196). -/
theorem execStep_after_execStep {s u : State} {p dir style : Code} {e : PortEntry} {d : Direction} {st : Style}
    (hc : s.Constructed p e) (hd : directionOf dir = some d) (hs : styleOf style = some st) (hst : st ≠ .microstep)
    {m : Word} (hu : execStep p dir style m s = .next u) (n : Word) : execStep p dir style n u =
      .next ((State.mainLoop p e d st (stepDelay s.cfg st (s.ctxOf p).usps.toNat)
        (m.toNat + n.toNat) s).respond 0#32) := by
  rw [execStep_of_ne_microstep s hc.listed hc.valid hd hs hst] at hu
  obtain rfl := Host.Outcome.next.inj hu
  obtain ⟨he, hv⟩ := (hc.mainLoop d st (stepDelay s.cfg st (s.ctxOf p).usps.toNat) m.toNat).respond 0#32
  rw [execStep_of_ne_microstep _ he hv hd hs hst, State.respond_cfg, State.respond_ctxOf, State.mainLoop_cfg,
    State.mainLoop_usps, State.mainLoop_respond, ← State.mainLoop_add]
  rfl

/-- Settles O23: a refused STEP is refused again, and the iterations of one that is not go on where they stopped. -/
theorem stepCountsAdd : Obligations.StepCountsAdd := by
  intro s t u v p dir style m n hstyle hlt ht hu hv
  have hcount : (m + n).toNat = m.toNat + n.toNat := by rw [BitVec.toNat_add, Nat.mod_eq_of_lt hlt]
  simp only [exec] at ht hu hv
  cases hc : s.checkMotion p dir style with
  | error err =>
    have hrefused : ∀ count, execStep p dir style count s = .next (s.raise err) := fun count => by rw [execStep, hc]
    obtain rfl := Host.Outcome.next.inj ((hrefused _).symm.trans ht)
    obtain rfl := Host.Outcome.next.inj ((hrefused _).symm.trans hu)
    have hagain : (s.raise err).checkMotion p dir style = .error err := hc
    rw [execStep, hagain] at hv
    exact (Host.Outcome.next.inj hv).symm
  | ok r =>
    obtain ⟨e, d, st⟩ := r
    obtain ⟨he, hvalid, hd, hs⟩ := s.checkMotion_ok p hc
    have hst : st ≠ .microstep := fun h => hstyle ((styleOf_eq_microstep_iff style).1 (h ▸ hs))
    rw [execStep_of_ne_microstep s he hvalid hd hs hst, hcount] at ht
    rw [execStep_after_execStep ⟨he, hvalid⟩ hd hs hst hu, ht] at hv
    exact (Host.Outcome.next.inj hv).symm

/-! The tail loop (rule R197). -/

/-- One microstep forward, round the cycle (rules R162, R164). -/
theorem stepPos_microstep_forward (c : Config) {x : Nat} (hx : x < c.cycle) :
    stepPos c .forward .microstep x = if x + 1 = c.cycle then 0 else x + 1 := by
  rw [stepPos, newPos, delta]
  split
  · next h => rw [h, Nat.mod_self]
  · next h => exact Nat.mod_eq_of_lt (by omega)

/-- One microstep backward. -/
theorem stepPos_microstep_backward (c : Config) {x : Nat} (hx : x < c.cycle) :
    stepPos c .backward .microstep x = if x = 0 then c.cycle - 1 else x - 1 := by
  rw [stepPos, newPos, delta]
  split
  · next h => rw [h, Nat.zero_add, Nat.mod_eq_of_lt (by omega)]
  · next h => rw [show x + c.cycle - 1 = x - 1 + c.cycle by omega, Nat.add_mod_right, Nat.mod_eq_of_lt (by omega)]

/-- From a position that is not one of rest, the table's number counts one microstep and what is left after it. -/
theorem tailCount_of_moving (c : Config) (d : Direction) {x : Nat} (hx : x < c.cycle) (h : ¬ AtRest c x) :
    tailCount c d x = tailCount c d (stepPos c d .microstep x) + 1 := by
  obtain ⟨hzero, hM⟩ := not_or.1 h
  have hcycle := c.cycle_eq
  cases d with
  | forward =>
    rw [stepPos_microstep_forward c hx]
    by_cases hwrap : x + 1 = c.cycle
    · simp only [tailCount, if_pos hwrap, true_or, if_true]
      split_ifs <;> omega
    · simp only [tailCount, if_neg hwrap, Nat.succ_ne_zero, false_or]
      split_ifs <;> omega
  | backward =>
    rw [stepPos_microstep_backward c hx, if_neg hzero]
    simp only [tailCount]
    split_ifs <;> omega

/-- At most `3·M − 1` iterations bring a position of the cycle to rest. -/
theorem tailCount_le (c : Config) (d : Direction) {x : Nat} (hx : x < c.cycle) : tailCount c d x ≤ 3 * c.M - 1 := by
  have hM := c.M_pos
  rw [c.cycle_eq] at hx
  cases d <;> rw [tailCount] <;> split_ifs <;> omega

/-- The tail loop is a main loop of the table's number of iterations, when its bound does not cut it off. -/
theorem State.tailLoop_eq_mainLoop {s : State} {p : Code} {e : PortEntry} {d : Direction} {us n : Nat}
    (hx : s.posOf p < s.cfg.cycle) (hn : tailCount s.cfg d (s.posOf p) ≤ n) : State.tailLoop p e d us n s =
      State.mainLoop p e d .microstep us (tailCount s.cfg d (s.posOf p)) s := by
  induction n generalizing s with
  | zero => rw [Nat.le_zero.1 hn]; rfl
  | succ n ih =>
    by_cases hrest : AtRest s.cfg (s.posOf p)
    · rw [State.tailLoop_of_atRest hrest, (tailCount_eq_zero_iff s.cfg d hx).2 hrest]
      rfl
    · have hpos : (s.pacedStep p e d .microstep us).posOf p = stepPos s.cfg d .microstep (s.posOf p) :=
        s.pacedStep_posOf p e d .microstep us
      have hmove := tailCount_of_moving s.cfg d hx hrest
      have hnext := ih (s := s.pacedStep p e d .microstep us)
      rw [State.pacedStep_cfg, hpos] at hnext
      rw [State.tailLoop, if_pos (not_or.1 hrest), hmove, State.mainLoop_succ]
      exact hnext (newPos_lt ..) (by omega)

/-! The position of a Microstep STEP. -/

section
variable (c : Config) (d : Direction) {x : Nat} (hx : x < c.cycle)

theorem microstepsFrom_lt (x n : Nat) : microstepsFrom c d x n < c.cycle := by
  cases d <;> exact Nat.mod_lt _ c.cycle_pos

include hx

/-- `n` steps in Microstep are `n` units round the cycle (rules R162, R167). -/
theorem iterate_stepPos_microstep (n : Nat) : (stepPos c d .microstep)^[n] x = microstepsFrom c d x n := by
  have hsum : deltaSum c d .microstep x n = n := by simp [deltaSum, delta]
  rw [iterate_stepPos c d .microstep hx, hsum]
  cases d <;> rfl

theorem microstepsFrom_add (m n : Nat) :
    microstepsFrom c d x (m + n) = microstepsFrom c d (microstepsFrom c d x m) n := by
  rw [← iterate_stepPos_microstep c d hx, ← iterate_stepPos_microstep c d hx,
    ← iterate_stepPos_microstep c d (by rw [iterate_stepPos_microstep c d hx]; exact microstepsFrom_lt c d x m),
    Nat.add_comm, Function.iterate_add_apply]

/-- Where the tail loop comes to rest going forward: at `M` from below it, at 0 from beyond (rule R197). -/
theorem microstepsFrom_tailCount_forward : microstepsFrom c .forward x (tailCount c .forward x) =
    if x = 0 ∨ x = c.M then x else if x < c.M then c.M else 0 := by
  have hcycle := c.cycle_eq
  rw [tailCount]
  split_ifs with hrest hbelow
  · exact microstepsFrom_zero .forward hx
  · rw [microstepsFrom, Nat.add_sub_of_le hbelow.le, Nat.mod_eq_of_lt (by omega)]
  · rw [microstepsFrom, ← hcycle, Nat.add_sub_of_le hx.le, Nat.mod_self]

/-- Going backward: at 0 from below `M`, at `M` from beyond. -/
theorem microstepsFrom_tailCount_backward : microstepsFrom c .backward x (tailCount c .backward x) =
    if x = 0 ∨ x = c.M then x else if x < c.M then 0 else c.M := by
  have hcycle := c.cycle_eq
  rw [tailCount]
  split_ifs with hrest hbelow
  · exact microstepsFrom_zero .backward hx
  · rw [microstepsFrom, Nat.add_sub_cancel_left, Nat.mul_mod_right]
  · have hturns : x + c.cycle * (x - c.M) - (x - c.M) = c.M + c.cycle * (x - c.M) := by omega
    rw [microstepsFrom, hturns, Nat.add_mul_mod_self_left, Nat.mod_eq_of_lt (by omega)]

end

section
variable (s : State) (p : Code) (e : PortEntry) (d : Direction) (hx : s.posOf p < s.cfg.cycle)
include hx

theorem State.mainLoop_microstep_posOf (us n : Nat) :
    (State.mainLoop p e d .microstep us n s).posOf p = microstepsFrom s.cfg d (s.posOf p) n := by
  rw [State.mainLoop_posOf, iterate_stepPos_microstep s.cfg d hx]

/-- Both loops of a Microstep STEP are one main loop (rules R193, R197). -/
theorem State.tailLoop_mainLoop (us n : Nat) :
    State.tailLoop p e d us s.cfg.cycle (State.mainLoop p e d .microstep us n s) =
      State.mainLoop p e d .microstep us (n + tailCount s.cfg d (microstepsFrom s.cfg d (s.posOf p) n)) s := by
  have hcfg := s.mainLoop_cfg p e d .microstep us n
  have hpos := s.mainLoop_microstep_posOf p e d hx us n
  have hlt := microstepsFrom_lt s.cfg d (s.posOf p) n
  have hbound := tailCount_le s.cfg d hlt
  rw [State.tailLoop_eq_mainLoop, hcfg, hpos, State.mainLoop_add]
  · rwa [hcfg, hpos]
  · rw [hcfg, hpos, s.cfg.cycle_eq]
    omega

/-- STEP's loops are, in every style, one main loop of the steps STEP takes (rules R194, R196, R197). -/
theorem State.stepLoops_eq_mainLoop (st : Style) (count : Nat) : s.stepLoops p e d st count =
    State.mainLoop p e d st (stepDelay s.cfg st (s.ctxOf p).usps.toNat)
      (stepsTaken s.cfg d st (s.posOf p) count) s := by
  cases st with
  | single | double | interleave => rfl
  | microstep => exact s.tailLoop_mainLoop p e d hx _ _

end

/-- Settles O20: the loops are one main loop, and the position it ends at is read off the table. -/
theorem microstepStepRunsToRest : Obligations.MicrostepStepRunsToRest := by
  intro s p dir style count e d he hv hd hs hpos M x k
  have hx : x < s.cfg.cycle := microstepsFrom_lt ..
  have hloops := s.stepLoops_eq_mainLoop p e d hpos .microstep count.toNat
  have hexec : exec (.step p dir style count) s = .next ((s.stepLoops p e d .microstep count.toNat).respond 0#32) :=
    execStep_of s he hv hd hs count
  have hrest : ((s.stepLoops p e d .microstep count.toNat).respond 0#32).posOf p =
      microstepsFrom s.cfg d x (tailCount s.cfg d x) := by
    rw [State.respond_posOf, hloops, s.mainLoop_microstep_posOf p e d hpos, stepsTaken,
      microstepsFrom_add s.cfg d hpos]
  refine ⟨_, hexec, by rw [hloops]; rfl, tailCount_le s.cfg d hx, hrest.trans ?_⟩
  cases d with
  | forward => exact microstepsFrom_tailCount_forward s.cfg hx
  | backward => exact microstepsFrom_tailCount_backward s.cfg hx

end Sys2Proof.Machine
end

section
/-! Rules R199, R200: PACE, and that the iterations of STEP request all the time they are given. -/

namespace Sys2Proof.Machine

/-- Settles O25: each field of what PACE leaves, its remainder within the bound of rule R200. -/
theorem paceRequestsAndCarries : Obligations.PaceRequestsAndCarries := by
  intro s p us _ hrem r
  have hfits := paceRem_lt (s.ctxOf p).rem us
  have hmod : us % 1000 < 1000 := Nat.mod_lt us (by decide)
  have hctx := s.pace_ctxOf p us
  refine ⟨paceRem (s.ctxOf p).rem.toNat us, rfl, ?sum, paceRem_le hrem us, ?ctx, ?rem, ?others, s.pace_out p us,
    s.pace_latch p us, s.pace_pins p us, s.pace_env p us, s.pace_cfg p us, s.pace_host p us, s.pace_busy p us,
    s.pace_rsp p us⟩
  case sum => omega
  case ctx => rw [hctx, if_pos rfl]
  case rem => rw [hctx, if_pos rfl, BitVec.toNat_ofNat, Nat.mod_eq_of_lt hfits]
  case others => exact fun p' hne => by rw [hctx, if_neg hne]

/-! The milliseconds of a list of events. -/

theorem totalMs_append (es fs : List Event) : totalMs (es ++ fs) = totalMs es + totalMs fs := by
  simp [totalMs]

/-- Events that request no delay take no time. -/
theorem totalMs_eq_zero {es : List Event} (h : ∀ e ∈ es, e.ms = 0) : totalMs es = 0 :=
  List.sum_eq_zero fun _ hms => by
    obtain ⟨e, he, rfl⟩ := List.mem_map.1 hms
    exact h e he

theorem totalMs_transmitEvents (w : Byte) : totalMs (transmitEvents w) = 0 :=
  totalMs_eq_zero fun e he => by
    obtain ⟨pin, level, rfl⟩ := transmitEvents_w w e he
    rfl

/-- PACE loses no microsecond of a delay whose milliseconds fit a request (rules R50, R199). -/
theorem totalMs_paceEvents (r : Nat) {us : Nat} (hus : us < 2 ^ 32) :
    1000 * totalMs (paceEvents r us) + paceRem r us = r + us := by
  have hms : (BitVec.ofNat 32 (us / 1000)).toNat = us / 1000 := by
    rw [BitVec.toNat_ofNat, Nat.mod_eq_of_lt ((Nat.div_le_self us 1000).trans_lt hus)]
  unfold paceEvents paceRem
  split <;> simp [totalMs, Event.ms, hms] <;> omega

/-- An iteration of STEP requests time in its PACE only, and loses none of it. -/
theorem State.pacedStep_time (s : State) (p : Code) (e : PortEntry) (d : Direction) (st : Style) {us : Nat}
    (hus : us < 2 ^ 32) : ∃ es, (s.pacedStep p e d st us).out = s.out ++ es ∧
      1000 * totalMs es + ((s.pacedStep p e d st us).ctxOf p).rem.toNat = (s.ctxOf p).rem.toNat + us := by
  refine ⟨_, (s.pacedStep_out p e d st us).trans (by rw [List.append_assoc, List.append_assoc]), ?_⟩
  have hduties : ∀ a b, totalMs [.pwmSet p .A a, .pwmSet p .B b] = 0 := fun _ _ => rfl
  rw [State.pacedStep_ctxOf, BitVec.toNat_ofNat, Nat.mod_eq_of_lt (paceRem_lt _ us), totalMs_append, totalMs_append,
    totalMs_transmitEvents, hduties, Nat.zero_add, Nat.zero_add, totalMs_paceEvents _ hus]

/-- So do `n` iterations. -/
theorem State.mainLoop_time (p : Code) (e : PortEntry) (d : Direction) (st : Style) {us : Nat} (hus : us < 2 ^ 32)
    (n : Nat) (s : State) : ∃ es, (State.mainLoop p e d st us n s).out = s.out ++ es ∧
      1000 * totalMs es + ((State.mainLoop p e d st us n s).ctxOf p).rem.toNat =
        (s.ctxOf p).rem.toNat + n * us := by
  induction n generalizing s with
  | zero => exact ⟨[], by simp, by simp [totalMs]⟩
  | succ n ih =>
    obtain ⟨es, hout, htime⟩ := s.pacedStep_time p e d st hus
    obtain ⟨fs, hout', htime'⟩ := ih (s.pacedStep p e d st us)
    refine ⟨es ++ fs, by rw [State.mainLoop_succ, hout', hout, List.append_assoc], ?_⟩
    rw [State.mainLoop_succ, totalMs_append, Nat.succ_mul n us]
    omega

/-- STEP's delay is at most the speed register's value (rule R195). -/
theorem stepDelay_le (c : Config) (st : Style) (usps : Nat) : stepDelay c st usps ≤ usps := by
  cases st with
  | single | double => exact Nat.le_refl usps
  | interleave | microstep => exact Nat.div_le_self usps _

/-- Settles O26: STEP's loops are so many iterations, and none of them loses time. -/
theorem pacingLosesNoTime : Obligations.PacingLosesNoTime := by
  intro s p dir style count e d st he hv hd hs hpos
  have hus : stepDelay s.cfg st (s.ctxOf p).usps.toNat < 2 ^ 32 :=
    (stepDelay_le s.cfg st _).trans_lt (s.ctxOf p).usps.isLt
  have hexec : exec (.step p dir style count) s = .next ((s.stepLoops p e d st count.toNat).respond 0#32) :=
    execStep_of s he hv hd hs count
  obtain ⟨es, hout, htime⟩ := State.mainLoop_time p e d st hus (stepsTaken s.cfg d st (s.posOf p) count.toNat) s
  rw [← s.stepLoops_eq_mainLoop p e d hpos st count.toNat] at hout htime
  exact ⟨_, es, hexec, hout, htime⟩

end Sys2Proof.Machine
end

section
/-! Rules R213 to R225: a command word is answered with the first error that applies and changes nothing else, or runs
to an OK response where none applies; and no step stops. -/

namespace Sys2Proof.Machine

section
variable {s : State} {i : Instr} {p dir style : Code} {rpm : Word} {err : CmdError}

/-- A command to which an error applies raises it (rules R213, R220). -/
theorem exec_of_refusal (h : s.refusal i = some err) : exec i s = .next (s.raise err) := by
  cases i with
  | new => exact execNew_of_refusal s h
  | setspeed => exact execSetspeed_of_refusal s h
  | onestep => exact execOnestep_of_refusal s h
  | step => exact execStep_of_refusal s h
  | release => exact execRelease_of_refusal s h
  | latchw => cases h

/-! What the command of a port finds where no error applies to it. -/

theorem State.listed_of_refusal_eq_none {spr : Word} (h : s.refusal (.new p spr) = none) :
    ∃ e, s.cfg.coilMap? p = some e :=
  (s.cfg.hasPort_eq_true p).1 (by simpa [State.refusal] using h)

theorem State.constructed_of_refusal_eq_none (h : s.refusal (.release p) = none) :
    ∃ e, s.cfg.coilMap? p = some e ∧ (s.ctxOf p).valid = true := by
  rcases s.checkConstructed_cases p with ⟨e, he, hv, -⟩ | ⟨hn, -⟩ | ⟨e, he, hv, -⟩
  · exact ⟨e, he, hv⟩
  · simp [State.refusal, Config.hasPort, hn] at h
  · simp [State.refusal, Config.hasPort, he, hv] at h

theorem State.divisor_of_refusal_eq_none (h : s.refusal (.setspeed p rpm) = none) :
    ∃ e, s.cfg.coilMap? p = some e ∧ (s.ctxOf p).valid = true ∧ (s.ctxOf p).spr.toNat * rpm.toNat ≠ 0 := by
  rw [State.refusal_setspeed, Option.or_eq_none_iff] at h
  obtain ⟨hrelease, hdiv⟩ := h
  obtain ⟨e, he, hv⟩ := State.constructed_of_refusal_eq_none hrelease
  exact ⟨e, he, hv, by simpa using hdiv⟩

theorem State.motion_of_refusal_eq_none (h : s.refusal (.onestep p dir style) = none) :
    ∃ e d st, s.cfg.coilMap? p = some e ∧ (s.ctxOf p).valid = true ∧ directionOf dir = some d ∧
      styleOf style = some st := by
  rw [State.refusal_onestep, Option.or_eq_none_iff] at h
  obtain ⟨hrelease, hcodes⟩ := h
  obtain ⟨e, he, hv⟩ := State.constructed_of_refusal_eq_none hrelease
  cases hd : directionOf dir with
  | none => simp [hd] at hcodes
  | some d =>
    cases hs : styleOf style with
    | none => simp [hd, hs] at hcodes
    | some st => exact ⟨e, d, st, he, hv, rfl, rfl⟩

/-- A command to which no error applies ends with an OK response (rules R13, R213). -/
theorem exec_of_refusal_eq_none (h : s.refusal i = none) : ∃ u v, exec i s = .next (State.respond u v) := by
  cases i with
  | new p spr =>
    obtain ⟨e, he⟩ := State.listed_of_refusal_eq_none h
    exact ⟨_, _, execNew_of s he spr⟩
  | setspeed p rpm =>
    obtain ⟨e, he, hv, hd⟩ := State.divisor_of_refusal_eq_none h
    exact ⟨_, _, execSetspeed_of s he hv hd⟩
  | onestep p dir style =>
    obtain ⟨e, d, st, he, hv, hd, hs⟩ := State.motion_of_refusal_eq_none h
    exact ⟨_, _, execOnestep_of s he hv hd hs⟩
  | step p dir style count =>
    obtain ⟨e, d, st, he, hv, hd, hs⟩ := State.motion_of_refusal_eq_none (dir := dir) (style := style) h
    exact ⟨_, _, execStep_of s he hv hd hs count⟩
  | release p =>
    obtain ⟨e, he, hv⟩ := State.constructed_of_refusal_eq_none h
    exact ⟨_, _, execRelease_of s he hv⟩
  | latchw mask value => exact ⟨_, _, rfl⟩

end

/-! The command word. -/

section
variable {s t : State} {w : Command} {rest : List HostAction} {err : CmdError}

/-- A word that decodes is refused as its command is, and every other word with BAD_ENCODING (rules R88, R215). -/
theorem State.wordRefusal_cases (s : State) (w : Command) :
    (∃ i, decode w = .ok i ∧ s.wordRefusal w = s.refusal i) ∨
    (decode w = .error .badEncoding ∧ s.wordRefusal w = some .badEncoding) := by
  unfold State.wordRefusal
  cases hdecode : decode w with
  | ok i => exact .inl ⟨i, rfl, rfl⟩
  | error reason => cases reason; exact .inr ⟨rfl, rfl⟩

/-- Acceptance touches nothing that an error depends on (rule R69). -/
theorem State.accept_wordRefusal (s : State) (rest : List HostAction) (w : Command) :
    (s.accept rest).wordRefusal w = s.wordRefusal w := rfl

/-- An illegal word raises BAD_ENCODING (rule R215). -/
theorem State.runWord_of_illegal (h : decode w = .error .badEncoding) :
    s.runWord w = .next (s.raise .badEncoding) := by
  simp only [State.runWord, h]

/-- A word to which an error applies raises it. -/
theorem State.runWord_of_wordRefusal (h : s.wordRefusal w = some err) : s.runWord w = .next (s.raise err) := by
  rcases s.wordRefusal_cases w with ⟨i, hdecode, hi⟩ | ⟨hdecode, hw⟩
  · rw [State.runWord_of_decode hdecode, exec_of_refusal (hi.symm.trans h)]
  · cases hw.symm.trans h
    exact State.runWord_of_illegal hdecode

/-- A word to which no error applies ends with an OK response. -/
theorem State.runWord_of_wordRefusal_eq_none (h : s.wordRefusal w = none) :
    ∃ u v, s.runWord w = .next (State.respond u v) := by
  rcases s.wordRefusal_cases w with ⟨i, hdecode, hi⟩ | ⟨-, hw⟩
  · rw [State.runWord_of_decode hdecode]
    exact exec_of_refusal_eq_none (hi.symm.trans h)
  · cases hw.symm.trans h

/-- Refusing an accepted word undoes its acceptance but for the response and the host's next action (rule R214). -/
theorem State.raise_accept (hidle : s.busy = false) (rest : List HostAction) (err : CmdError) :
    (s.accept rest).raise err = { s with host := rest, rsp := some (errorResponse err) } := by
  simp only [State.raise, State.accept, hidle]

/-- The step that accepts a word to which an error applies. -/
theorem step_of_wordRefusal (hidle : s.busy = false) (hhost : s.host = .command w :: rest)
    (h : s.wordRefusal w = some err) :
    step s = .next { s with host := rest, rsp := some (errorResponse err) } := by
  rw [step_command hidle hhost, State.runWord_of_wordRefusal ((s.accept_wordRefusal rest w).trans h),
    State.raise_accept hidle]

/-- The step that accepts a word to which no error applies. -/
theorem step_of_wordRefusal_eq_none (hidle : s.busy = false) (hhost : s.host = .command w :: rest)
    (h : s.wordRefusal w = none) : ∃ u v, step s = .next (State.respond u v) := by
  rw [step_command hidle hhost]
  exact State.runWord_of_wordRefusal_eq_none ((s.accept_wordRefusal rest w).trans h)

/-- A word cut short ends in a reset block (rule R236). -/
theorem State.cutShort_next (s : State) (w : Command) (k : Nat) : ∃ t, s.cutShort w k = .next t := by
  obtain ⟨t, hrun⟩ := s.runWord_next w
  exact ⟨(s.emitAll ((newEvents s t).take k)).blockReset, by simp only [State.cutShort, hrun]⟩

end

/-- The status of an OK response is 0 (rules R95, R211). -/
theorem okResponse_status (v : Word) : (okResponse v).extractLsb' 38 2 = 0#2 := by
  obtain ⟨hstatus, -⟩ := fields_responseWord 0#2 0#3 v
  exact hstatus

/-- The value of an error response is 0 (rules R95, R214). -/
theorem errorResponse_value (err : CmdError) : (errorResponse err).extractLsb' 0 32 = 0#32 := by
  obtain ⟨-, -, -, hvalue⟩ := fields_responseWord err.status err.cause 0#32
  exact hvalue

/-- Settles O11: an error response is given only where an error applies, and raising it changes nothing else. -/
theorem refusedCommandsLeaveNoTrace : Obligations.RefusedCommandsLeaveNoTrace := by
  intro s t w rest r hidle hhost hstep hr hstatus
  cases hw : s.wordRefusal w with
  | some err =>
    cases (step_of_wordRefusal hidle hhost hw).symm.trans hstep
    cases hr
    exact ⟨rfl, ⟨err, rfl, rfl⟩, errorResponse_value err⟩
  | none =>
    obtain ⟨u, v, hok⟩ := step_of_wordRefusal_eq_none hidle hhost hw
    cases hok.symm.trans hstep
    cases hr
    exact absurd (okResponse_status v) hstatus

/-- Settles O12: the checks of each command fail with the first error that applies to it, or all pass. -/
theorem theFirstErrorIsReported : Obligations.TheFirstErrorIsReported := by
  intro s w rest hidle hhost
  refine ⟨fun err hw => ⟨_, step_of_wordRefusal hidle hhost hw, rfl⟩, fun hw => ?_⟩
  obtain ⟨u, v, hok⟩ := step_of_wordRefusal_eq_none hidle hhost hw
  exact ⟨_, v, hok, u.respond_rsp v⟩

/-- Settles O9: a busy block waits, and every action of the host on an idle one ends in a next state. -/
theorem noStepStops : Obligations.NoStepStops := by
  intro s
  cases hbusy : s.busy with
  | true => exact ⟨s, step_busy hbusy⟩
  | false =>
    cases hhost : s.host with
    | nil => exact ⟨s, step_unasked hbusy hhost⟩
    | cons action rest =>
      cases action with
      | command w =>
        rw [step_command hbusy hhost]
        exact (s.accept rest).runWord_next w
      | reset => exact ⟨_, step_reset hbusy hhost⟩
      | commandThenReset w k =>
        rw [step_commandThenReset hbusy hhost]
        exact (s.accept rest).cutShort_next w k

end Sys2Proof.Machine
end

section
/-! Rules R235, R237: the reset of an idle block by its host. -/

namespace Sys2Proof.Machine

/-- Settles O55: the block's reset neither reads nor writes what the host does next. -/
theorem resetActionResetsTheBlock : Obligations.ResetActionResetsTheBlock :=
  fun _ _ hidle hhost => ⟨step_reset hidle hhost, step_reset hidle hhost⟩

end Sys2Proof.Machine
end

section
/-! Rule R251: the events of each command, counted by their kind. -/

namespace Sys2Proof.Machine

/-- The numbers of pin writes, duty writes and delay requests in a list of events. -/
structure Tally (es : List Event) (w pwm del : Nat) : Prop where
  pinWrites : es.countP Event.isW = w
  dutyWrites : es.countP Event.isPwm = pwm
  delays : es.countP Event.isDelay = del

theorem Tally.nil : Tally [] 0 0 0 := ⟨rfl, rfl, rfl⟩

theorem Tally.append {es fs : List Event} {w pwm del w' pwm' del' : Nat} (he : Tally es w pwm del)
    (hf : Tally fs w' pwm' del') : Tally (es ++ fs) (w + w') (pwm + pwm') (del + del') where
  pinWrites := by rw [List.countP_append, he.pinWrites, hf.pinWrites]
  dutyWrites := by rw [List.countP_append, he.dutyWrites, hf.dutyWrites]
  delays := by rw [List.countP_append, he.delays, hf.delays]

/-- A TRANSMIT is 27 pin writes (rule R111). -/
theorem tally_transmitEvents (w : Byte) : Tally (transmitEvents w) 27 0 0 := ⟨rfl, rfl, rfl⟩

/-- Sending a latch word and programming the two duties of a port: what ONESTEP and RELEASE emit (rules R170, R175). -/
theorem tally_transmit_duties (w : Byte) (p : Code) (a b : Byte) :
    Tally (transmitEvents w ++ [.pwmSet p .A a, .pwmSet p .B b]) 27 2 0 :=
  (tally_transmitEvents w).append ⟨rfl, rfl, rfl⟩

/-- A PACE is one delay request or two (rule R199). -/
theorem tally_paceEvents (r us : Nat) : ∃ del, Tally (paceEvents r us) 0 0 del ∧ 1 ≤ del ∧ del ≤ 2 := by
  unfold paceEvents
  split
  · exact ⟨2, ⟨rfl, rfl, rfl⟩, by decide, by decide⟩
  · exact ⟨1, ⟨rfl, rfl, rfl⟩, by decide, by decide⟩

section
variable (s : State) (p : Code) (e : PortEntry) (d : Direction) (st : Style)

/-- An iteration of STEP is a ONESTEP and a PACE (rule R196). -/
theorem State.pacedStep_tally (us : Nat) : ∃ es del, (s.pacedStep p e d st us).out = s.out ++ es ∧
    Tally es 27 2 del ∧ 1 ≤ del ∧ del ≤ 2 := by
  obtain ⟨del, hpace, hlow, hhigh⟩ := tally_paceEvents (s.ctxOf p).rem.toNat us
  rw [State.pacedStep_out, List.append_assoc s.out, List.append_assoc s.out]
  exact ⟨_, 0 + del, rfl, (tally_transmit_duties _ p _ _).append hpace, by omega, by omega⟩

/-- So `k` iterations are `k` of each. -/
theorem State.mainLoop_tally (us k : Nat) : ∃ es del, (State.mainLoop p e d st us k s).out = s.out ++ es ∧
    Tally es (27 * k) (2 * k) del ∧ k ≤ del ∧ del ≤ 2 * k := by
  induction k generalizing s with
  | zero => exact ⟨[], 0, (List.append_nil _).symm, Tally.nil, Nat.le_refl _, Nat.le_refl _⟩
  | succ k ih =>
    obtain ⟨es, del, hout, htally, hlow, hhigh⟩ := s.pacedStep_tally p e d st us
    obtain ⟨fs, del', hout', htally', hlow', hhigh'⟩ := ih (s.pacedStep p e d st us)
    refine ⟨es ++ fs, del + del', by rw [State.mainLoop_succ, hout', hout, List.append_assoc], ?_, by omega, by omega⟩
    rw [Nat.mul_succ, Nat.mul_succ, Nat.add_comm _ 27, Nat.add_comm _ 2]
    exact htally.append htally'

/-- STEP's loops in every style: so many iterations as STEP takes steps (rules R194, R197). -/
theorem State.stepLoops_tally (hpos : s.posOf p < s.cfg.cycle) (count : Nat) :
    ∃ es del, (s.stepLoops p e d st count).out = s.out ++ es ∧
      Tally es (27 * stepsTaken s.cfg d st (s.posOf p) count) (2 * stepsTaken s.cfg d st (s.posOf p) count) del ∧
      stepsTaken s.cfg d st (s.posOf p) count ≤ del ∧ del ≤ 2 * stepsTaken s.cfg d st (s.posOf p) count := by
  rw [s.stepLoops_eq_mainLoop p e d hpos st count]
  exact s.mainLoop_tally p e d st _ _

end

/-- Settles O24: a refused command emits nothing; one that runs emits the events of its own operations, of which only
STEP's loops have a number that depends on the state. -/
theorem commandsEmitTheListedNumberOfEvents : Obligations.CommandsEmitTheListedNumberOfEvents := by
  intro s t i hexec hpos
  cases hrefusal : s.refusal i with
  | some err =>
    cases (exec_of_refusal hrefusal).symm.trans hexec
    exact ⟨[], (List.append_nil _).symm, rfl⟩
  | none =>
    cases i with
    | new p spr =>
      obtain ⟨e, he⟩ := State.listed_of_refusal_eq_none hrefusal
      cases (execNew_of s he spr).symm.trans hexec
      exact ⟨[], (List.append_nil _).symm, rfl⟩
    | setspeed p rpm =>
      obtain ⟨e, he, hv, hdiv⟩ := State.divisor_of_refusal_eq_none hrefusal
      cases (execSetspeed_of s he hv hdiv).symm.trans hexec
      exact ⟨[], (List.append_nil _).symm, rfl⟩
    | onestep p dir style =>
      obtain ⟨e, d, st, he, hv, hd, hs⟩ := State.motion_of_refusal_eq_none hrefusal
      cases (execOnestep_of s he hv hd hs).symm.trans hexec
      obtain ⟨hw, hpwm, hdel⟩ := tally_transmit_duties (s.oneStepCore p e d st).latch p _ _
      exact ⟨_, (s.oneStepCore_out p e d st).trans (List.append_assoc ..), hw, hpwm, hdel⟩
    | step p dir style count =>
      obtain ⟨e, d, st, he, hv, hd, hs⟩ := State.motion_of_refusal_eq_none (dir := dir) (style := style) hrefusal
      cases (execStep_of s he hv hd hs count).symm.trans hexec
      obtain ⟨es, del, hout, ⟨hw, hpwm, hdel⟩, hlow, hhigh⟩ := s.stepLoops_tally p e d st (hpos p) count.toNat
      refine ⟨es, hout, fun d' st' hd' hs' => ?_⟩
      cases hd.symm.trans hd'
      cases hs.symm.trans hs'
      exact ⟨hw, hpwm, hdel ▸ hlow, hdel ▸ hhigh⟩
    | release p =>
      obtain ⟨e, he, hv⟩ := State.constructed_of_refusal_eq_none hrefusal
      cases (execRelease_of_constructed s ⟨he, hv⟩).symm.trans hexec
      obtain ⟨hw, hpwm, hdel⟩ := tally_transmit_duties (s.releaseCore p e).latch p 0#8 0#8
      exact ⟨_, (s.releaseCore_out p e).trans (List.append_assoc ..), hw, hpwm, hdel⟩
    | latchw mask value =>
      cases hexec
      obtain ⟨hw, hpwm, hdel⟩ := tally_transmitEvents (s.updateLatch mask value).latch
      exact ⟨_, (s.updateLatch mask value).transmit_out, hw, hpwm, hdel⟩

end Sys2Proof.Machine
end
